-- ==== Sys2Proof/Word.lean ====
section
/-! DEFINITION. The unit's word types (00_scope.md R6, R8): every value of the unit is a plain string of bits whose bit 0
is the least significant. -/

namespace Sys2Proof

/-- The 8-bit data of one host transaction (`DATA_W`, R6). -/
abbrev Byte := BitVec 8

/-- One bit-plane register, 32 lanes wide (`PLANE_W`, R6, R15). -/
abbrev Plane := BitVec 32

/-- One 64-bit block of the cipher (`BLOCK_BITS`, R6). -/
abbrev Block := BitVec 64

/-- The 80-bit key register `KEY80` (`KEY_BITS`, R6, R19). -/
abbrev Key := BitVec 80

/-- A 10-bit port address (`ADDR_W`, R6, R31). -/
abbrev PortAddr := BitVec 10

/-- The round counter `ROUND` (6 bits, R21). -/
abbrev Round := BitVec 6

end Sys2Proof
end

