-- ==== Sys2Proof/Config.lean ====
section
/-! DEFINITION. What is fixed for the unit: the parameters of 00_scope.md R6, the nine commands by name
(30_encoding.md R54), the three OPEN parameters of 92_eei_decisions.md and the free value of an unwritten BATCH byte, which
are constants without a body: no proof can see a value of them. -/

namespace Sys2Proof

/-- The nine commands of the unit, in the order of the opcode map (R54). -/
inductive Command where
  | nop
  | encode
  | decode
  | ksadv
  | keymix
  | sbox
  | player
  | round
  | encrypt
  deriving DecidableEq, Repr

namespace Config

/-- The identity string of the spec (R1). -/
def identity : String := "PBSU-1 (PRESENT-80, 32 lanes, 32-bit planes)"

/-- `LANES` (R6). -/
def lanes : Nat := 32
/-- `BLOCK_BITS` (R6). -/
def blockBits : Nat := 64
/-- `KEY_BITS` (R6). -/
def keyBits : Nat := 80
/-- `ROUNDS` (R6). -/
def rounds : Nat := 31
/-- `NPLANES` (R6; 90_conflicts.md C2). -/
def nplanes : Nat := 64
/-- `PLANE_W` (R6; 92_eei_decisions.md D15). -/
def planeW : Nat := 32
/-- `BATCH_BYTES` (R6). -/
def batchBytes : Nat := 256
/-- `ROT`, the key rotation (R6, R75: it is not configurable). -/
def rot : Nat := 19
/-- `ADDR_W` (R6). -/
def addrW : Nat := 10
/-- `DATA_W` (R6). -/
def dataW : Nat := 8

/-- OPEN (R128, 93 I13): the clock cycles of each command beyond its first, `LAT_<op>` - 1. -/
opaque extraCycles : Command → Nat

/-- OPEN (R128): the clock cycles of a failed command beyond its first, `LAT_ERR` - 1. -/
opaque extraErrorCycles : Nat

/-- OPEN (`BUS_PROTOCOL`, R31, R129): the cycles from `req` to `ack` of a transaction that starts no command, by its
direction (true for a write) and its address; a natural number, so finite. -/
opaque busCycles : Bool → PortAddr → Nat

/-- OPEN (`PLATFORM_BASE`, R46): where the 1024-byte window of the port stands in a host system. -/
opaque platformBase : Nat

/-- A free value: what `BATCH[a]` would show where it is unwritten. The hardware has some value there and the spec leaves it
unspecified (R30, 93 I6); DESIGN CHOICE, notes/assumptions/20.md, safe. -/
opaque unwrittenBatchByte : Nat → Byte

end Config

end Sys2Proof
end

