-- ==== Sys2Proof/Syntax.lean ====
section
/-! DEFINITION. The instructions of the unit: one constructor for each row of spec/opcode_table.json (30_encoding.md
R53, R54, R59). A command mnemonic is one write of its byte to CMD (R62); the operands of WR and RD are the fields A and D
of the transaction word. -/

namespace Sys2Proof

/-- The nine commands (format `cmd8`) and the two host transactions (format `bus19`). -/
inductive Instr where
  /-- NOP, 0x00 (R92). -/
  | nop
  /-- ENCODE, 0x01 (R65). -/
  | encode
  /-- DECODE, 0x02 (R66). -/
  | decode
  /-- KSADV, 0x03 (R73). -/
  | ksadv
  /-- KEYMIX, 0x04 (R79). -/
  | keymix
  /-- SBOX, 0x05 (R81). -/
  | sbox
  /-- PLAYER, 0x06 (R84). -/
  | player
  /-- ROUND, 0x07 (R87). -/
  | round
  /-- ENCRYPT, 0x08 (R91). -/
  | encrypt
  /-- WR A, D (R34). -/
  | wr (a : PortAddr) (d : Byte)
  /-- RD A (R33). -/
  | rd (a : PortAddr)
  deriving DecidableEq, Repr

end Sys2Proof
end

