-- ==== Sys2Proof/WellFormed.lean ====
section
/-! DEFINITION. When a raw word is one of the unit's forms (30_encoding.md R53, R56 to R60, R64): the checks a transcriber
and the command register make, each under a name of its own. The operands of an instruction are bit vectors of exactly
the width of their field, so every term of `Instr` is well-formed; what can be ill-formed is a word. -/

namespace Sys2Proof.WellFormed

/-- The field RSV, bits 7:4 of a command byte, is zero (R56). -/
def reservedClear (v : Byte) : Bool := v.extractLsb' 4 4 == 0#4

/-- The field OP, bits 3:0 of a command byte, names a command (R54, R57). -/
def opcodeLegal (v : Byte) : Bool := (v.extractLsb' 0 4).toNat < 9

/-- A command byte (format `cmd8`). -/
def command (v : Byte) : Bool := reservedClear v && opcodeLegal v

/-- A transaction word has no bit above bit 18 (R59). -/
def noHighBits (w : BitVec 24) : Bool := w.extractLsb' 19 5 == 0#5

/-- An RD word (W = 0) has D = 0x00 (R59). -/
def readDataClear (w : BitVec 24) : Bool := w.getLsbD 18 || w.extractLsb' 0 8 == 0#8

/-- A transaction word (format `bus19`), in three bytes. -/
def transaction (w : BitVec 24) : Bool := noHighBits w && readDataClear w

/-- A word of the host, as bytes, the least significant first: one byte is a command byte, three are a transaction word;
there is no other length (R60). -/
def word : List Byte → Bool
  | [v] => command v
  | [b0, b1, b2] => transaction (b2 ++ b1 ++ b0)
  | _ => false

end Sys2Proof.WellFormed
end

