-- ==== Sys2Proof/Decode.lean ====
section
/-! DEFINITION. Decoding (30_encoding.md R53 to R64): from the bytes of a word to an instruction or a named rejection,
the encoder written from the same tables, and the rows of the opcode table as masks and matches. Total on any bytes. A
word of one byte is a command byte; a word of three bytes is a 19-bit transaction word, least significant byte first
(DESIGN CHOICE, notes/assumptions/3.md; safe). -/

namespace Sys2Proof

/-- Why a word is no instruction. -/
inductive DecodeError where
  /-- A command byte with bits 7:4 not zero: RESERVED_BITS (R56). -/
  | reservedBits (v : Byte)
  /-- A command byte 0x09 to 0x0F: ILLEGAL_OP (R57). -/
  | illegalOp (v : Byte)
  /-- A transaction word with a bit above bit 18 set: no transaction (R59). -/
  | highBits (w : BitVec 24)
  /-- An RD word with D not zero: no transaction (R59). -/
  | readWithData (w : BitVec 24)
  /-- Neither one byte nor three: no form of R60. -/
  | noSuchLength (n : Nat)
  deriving DecidableEq, Repr

/-- The command byte of each command (R54). -/
def Command.byte : Command → Byte
  | .nop => 0x00#8
  | .encode => 0x01#8
  | .decode => 0x02#8
  | .ksadv => 0x03#8
  | .keymix => 0x04#8
  | .sbox => 0x05#8
  | .player => 0x06#8
  | .round => 0x07#8
  | .encrypt => 0x08#8

/-- The command that the opcode field `OP` names, if any (R54). -/
def commandOfOp (op : BitVec 4) : Option Command :=
  match op.toNat with
  | 0 => some .nop
  | 1 => some .encode
  | 2 => some .decode
  | 3 => some .ksadv
  | 4 => some .keymix
  | 5 => some .sbox
  | 6 => some .player
  | 7 => some .round
  | 8 => some .encrypt
  | _ => none

/-- Decoding a command byte: first `RSV`, then `OP` (R64; the operand range is checked when the command runs, R101). -/
def decodeCommand (v : Byte) : Except DecodeError Command :=
  if v.extractLsb' 4 4 ≠ 0#4 then .error (.reservedBits v)
  else match commandOfOp (v.extractLsb' 0 4) with
    | some c => .ok c
    | none => .error (.illegalOp v)

/-- Each command is an instruction under its mnemonic (R62). -/
def Command.instr : Command → Instr
  | .nop => .nop
  | .encode => .encode
  | .decode => .decode
  | .ksadv => .ksadv
  | .keymix => .keymix
  | .sbox => .sbox
  | .player => .player
  | .round => .round
  | .encrypt => .encrypt

/-- Decoding a transaction word: W is bit 18, A bits 17:8, D bits 7:0 (R59). -/
def decodeTransaction (w : BitVec 24) : Except DecodeError Instr :=
  if w.extractLsb' 19 5 ≠ 0#5 then .error (.highBits w)
  else if w.getLsbD 18 then .ok (.wr (w.extractLsb' 8 10) (w.extractLsb' 0 8))
  else if w.extractLsb' 0 8 ≠ 0#8 then .error (.readWithData w)
  else .ok (.rd (w.extractLsb' 8 10))

/-- Decoding the bytes of a word. -/
def decode : List Byte → Except DecodeError Instr
  | [v] =>
    match decodeCommand v with
    | .ok c => .ok c.instr
    | .error e => .error e
  | [b0, b1, b2] => decodeTransaction (b2 ++ b1 ++ b0)
  | bytes => .error (.noSuchLength bytes.length)

/-- The 19-bit word of `WR A, D` (R59). -/
def writeWord (a : PortAddr) (d : Byte) : BitVec 19 := 1#1 ++ a ++ d

/-- The 19-bit word of `RD A` (R59). -/
def readWord (a : PortAddr) : BitVec 19 := 0#1 ++ a ++ 0#8

/-- The three bytes of a 19-bit word, least significant first. -/
def wordBytes (w : BitVec 19) : List Byte :=
  [w.extractLsb' 0 8, w.extractLsb' 8 8, w.extractLsb' 16 8]

/-- The bytes of an instruction. -/
def encode : Instr → List Byte
  | .nop => [Command.nop.byte]
  | .encode => [Command.encode.byte]
  | .decode => [Command.decode.byte]
  | .ksadv => [Command.ksadv.byte]
  | .keymix => [Command.keymix.byte]
  | .sbox => [Command.sbox.byte]
  | .player => [Command.player.byte]
  | .round => [Command.round.byte]
  | .encrypt => [Command.encrypt.byte]
  | .wr a d => wordBytes (writeWord a d)
  | .rd a => wordBytes (readWord a)

/-- One row of the opcode table: a word is of the row when its bits under the mask are the row's value. -/
structure TableRow where
  nbytes : Nat
  mask : Nat
  value : Nat
  deriving DecidableEq, Repr

/-- The row of spec/opcode_table.json that each instruction stands for. -/
def tableRow : Instr → TableRow
  | .nop => ⟨1, 0xFF, 0x00⟩
  | .encode => ⟨1, 0xFF, 0x01⟩
  | .decode => ⟨1, 0xFF, 0x02⟩
  | .ksadv => ⟨1, 0xFF, 0x03⟩
  | .keymix => ⟨1, 0xFF, 0x04⟩
  | .sbox => ⟨1, 0xFF, 0x05⟩
  | .player => ⟨1, 0xFF, 0x06⟩
  | .round => ⟨1, 0xFF, 0x07⟩
  | .encrypt => ⟨1, 0xFF, 0x08⟩
  | .wr _ _ => ⟨3, 0x40000, 0x40000⟩
  | .rd _ => ⟨3, 0x400FF, 0x00000⟩

/-- The number that a list of bytes spells, least significant first. -/
def wordValue : List Byte → Nat
  | [] => 0
  | b :: rest => b.toNat + 256 * wordValue rest

/-- `n` bytes of the number `w`, least significant first. -/
def bytesOfNat : Nat → Nat → List Byte
  | 0, _ => []
  | n + 1, w => BitVec.ofNat 8 w :: bytesOfNat n (w / 256)

/-- The bytes of a table word of `nbits` bits: up to eight bits are a command byte, more are a transaction word of three
bytes (a table row has no other width, R60). -/
def tableBytes (nbits w : Nat) : List Byte :=
  bytesOfNat (if nbits ≤ 8 then 1 else max 3 ((nbits + 7) / 8)) w

/-- The instruction this decoder reads from a word numbered as spec/opcode_table.json numbers it. -/
def decodeTableWord (nbits w : Nat) : Option Instr :=
  match decode (tableBytes nbits w) with
  | .ok i => some i
  | .error _ => none

end Sys2Proof
end

