-- ==== Sys2Proof/Machine/Bits.lean ====
section
/-! DEFINITION. The bit notation of 00_scope.md R8: words from their bits, bytes of a word, replication, rotation, and
tables with an entry for each index. -/

namespace Sys2Proof.Machine

/-- The word whose bit `i` is `f i`. -/
def ofBits : (n : Nat) → (Fin n → Bool) → BitVec n
  | 0, _ => 0#0
  | n + 1, f => BitVec.cons (f (Fin.last n)) (ofBits n fun i => f i.castSucc)

/-- The table whose entry `i` is `f i`. -/
def tabulate {α : Type} (n : Nat) (f : Fin n → α) : Vector α n :=
  ⟨⟨List.ofFn f⟩, by simp⟩

/-- `rep32(b)`: every bit equal to `b` (R8). -/
def rep32 (b : Bool) : Plane := if b then 0xFFFFFFFF#32 else 0x00000000#32

/-- `rotr80(v, n)`: bit `j` is `v[(j+n) % 80]` (R8). -/
def rotr80 (v : Key) (n : Nat) : Key := v.rotateRight n

/-- Byte `b` of a word, bits `8b+7` down to `8b` (R19, R41). -/
def byteAt {n : Nat} (x : BitVec n) (b : Nat) : Byte := x.extractLsb' (8 * b) 8

/-- The word `x` with its byte `b` replaced by `v` and every other bit as before (R34, R41). -/
def withByteAt {n : Nat} (x : BitVec n) (b : Nat) (v : Byte) : BitVec n :=
  (x &&& ~~~((0xFF#8).setWidth n <<< (8 * b))) ||| (v.setWidth n <<< (8 * b))

end Sys2Proof.Machine
end

