-- ==== Sys2Proof/Machine/State.lean ====
section
/-! DEFINITION. The state of the unit (10_state.md R11, R26 to R28, R30) with the host's side of its port (20_memory.md
R31, R32, 70_reset_and_hazards.md R130), the two ways a step can stop, and the state after reset. -/

namespace Sys2Proof.Machine

/-- Byte storage with its written marks: the written bytes only, by strictly rising address. A byte that is not listed
has no written mark and no value (R28, R30; DESIGN CHOICE of form, notes/assumptions/6.md; safe). -/
abbrev Memory := List Host.Cell

/-- The file of the 64 bit-plane registers (R15). -/
abbrev Planes := Vector Plane 64

/-- The sub-step of a round that ENCRYPT's sequencer is in (R27). -/
inductive RoundStep where
  | keyMix
  | substitute
  | permute
  | keyScheduleAdvance
  deriving DecidableEq, Repr

/-- The phase of ENCRYPT's sequencer (R27); `idle` between commands (R115). -/
inductive Phase where
  | idle
  | enc
  | rnd (r : Round) (step : RoundStep)
  | whiten
  | dec
  deriving DecidableEq, Repr

/-- The codes of `STATUS.ERRCODE` that name an error (R100). -/
inductive ErrorCode where
  | illegalOp
  | reservedBits
  | roundRange
  | unmapped
  deriving DecidableEq, Repr

/-- What a port address reaches (20_memory.md R36). -/
inductive Region where
  /-- `BATCH[a]` (R37). -/
  | batch (a : Fin 256)
  /-- `KEY[j]` (R38). -/
  | key (j : Fin 10)
  | cmd
  | status
  | round
  /-- Byte `b` of `PLANE[p]` (R41). -/
  | plane (p : Fin 64) (b : Fin 4)
  /-- A reserved address (R40). -/
  | reserved
  deriving DecidableEq, Repr

/-- What the host puts on the port next (R31, R32, R115, R116). -/
inductive HostInput where
  /-- One word of the host program: a command byte for CMD, or a 19-bit transaction word (R59, R62), as bytes. -/
  | word (bytes : List Byte)
  /-- `rst` is asserted between two transactions (R115). -/
  | rst
  /-- The host writes `v` to CMD, and `rst` is asserted while that write is stalled (R116). -/
  | rstInCommand (v : Byte)
  deriving DecidableEq, Repr

/-- The model's faults. -/
inductive Fault where
  /-- UNINIT_READ by a command: the command `c` reads a byte with no written mark (R28, R100). Raised by every command but
  NOP. Safe: the hardware goes on with unspecified values, the model stops. -/
  | uninitReadBy (c : Command)
  /-- UNINIT_READ by the host: RD at address `a`, whose byte has no written mark (R28, R33). Raised by RD. Safe: the
  hardware returns an unspecified byte, the model stops. -/
  | uninitReadAt (a : PortAddr)
  deriving DecidableEq, Repr

/-- The model's refusals. -/
inductive Refusal where
  /-- An instruction with no meaning yet. Raised by no arm of this model. Safe. -/
  | notModelled (mnemonic : String)
  /-- The host's next word is no transaction (R59): raised by the step, before any instruction runs. Safe: a transcriber
  refuses such a word, so it never reaches the unit. -/
  | notATransaction (bytes : List Byte)
  deriving DecidableEq, Repr

/-- The state of the unit and of its port. -/
structure State where
  /-- `BATCH[0..255]` and its written marks, by address 0x000 to 0x0FF (R12, R28). -/
  batch : Memory
  /-- `PLANE[0..63]` (R15). -/
  plane : Planes
  /-- The written marks of PLANE's bytes; byte `b` of plane `p` is number `4p + b` (R28). -/
  planeMark : Vector Bool 256
  /-- The key register, `KEY80` (R18, R19). -/
  key : Key
  /-- The written marks of `KEY[0..9]` (R28). -/
  keyMark : Vector Bool 10
  /-- `ROUND` (R21). -/
  round : Round
  /-- `CMD` (R23). -/
  cmd : Byte
  /-- `STATUS` (R24). -/
  status : Byte
  /-- `TMP[0..63]`, the permutation buffer, not architectural (R26). -/
  tmp : Planes
  /-- The phase of ENCRYPT's sequencer, not architectural (R27). -/
  phase : Phase
  /-- What the host has still to put on the port, in program order (R32, R130). -/
  inputs : List HostInput
  /-- The bytes that the host's reads returned, oldest first (R130). -/
  observed : List Byte
  deriving DecidableEq, Repr

/-- The machine right after reset (R30, R115). `ROUND`, `CMD`, `STATUS` and the marks are the spec's values. PLANE, KEY and
TMP are unspecified there and hold 0 here (DESIGN CHOICE, notes/assumptions/5.md and 8.md; unsafe for a statement that
looks at an unmarked byte past the accessors); the phase is idle (DEDUCED, notes/assumptions/9.md; safe); no input waits
and nothing was read (DESIGN CHOICE, notes/assumptions/1.md and 14.md; safe). -/
def State.reset : State where
  batch := []
  plane := Vector.replicate 64 0#32
  planeMark := Vector.replicate 256 false
  key := 0#80
  keyMark := Vector.replicate 10 false
  round := 0#6
  cmd := 0x00#8
  status := 0x00#8
  tmp := Vector.replicate 64 0#32
  phase := .idle
  inputs := []
  observed := []

end Sys2Proof.Machine
end

