-- ==== Sys2Proof/Machine/Flags.lean ====
section
/-! DEFINITION. The fields of STATUS and every way they change (10_state.md R24, 60_exceptions.md R100, R102, R103,
R105). The unit has no other flags (R25). -/

namespace Sys2Proof.Machine

/-- The number of an error code (R100). -/
def ErrorCode.bits : ErrorCode → BitVec 3
  | .illegalOp => 1#3
  | .reservedBits => 2#3
  | .roundRange => 3#3
  | .unmapped => 4#3

/-- `STATUS.DONE`, bit 0 (R24). -/
def statusDone (st : Byte) : Bool := st.getLsbD 0

/-- `STATUS.ERR`, bit 1 (R24). -/
def statusErr (st : Byte) : Bool := st.getLsbD 1

/-- `STATUS.ERRCODE`, bits 4:2 (R24). -/
def statusErrCode (st : Byte) : BitVec 3 := st.extractLsb' 2 3

/-- `STATUS` bits 7:5, reserved (R24). -/
def statusReserved (st : Byte) : BitVec 3 := st.extractLsb' 5 3

/-- STATUS as the start of a command leaves it: DONE, ERR and ERRCODE cleared (R102). -/
def statusCleared : Byte := 0x00#8

/-- `STATUS.DONE <- 1`, the other bits as before (R102). -/
def statusWithDone (st : Byte) : Byte := st ||| 0x01#8

/-- STATUS after a command failed with error `c` (R103). -/
def statusOfError (c : ErrorCode) : Byte := 0#3 ++ c.bits ++ 1#1 ++ 0#1

/-- STATUS after an unmapped access: ERR and ERRCODE record UNMAPPED, DONE and the reserved bits as before (R105). -/
def statusWithUnmapped (st : Byte) : Byte :=
  statusReserved st ++ ErrorCode.unmapped.bits ++ 1#1 ++ st.extractLsb' 0 1

/-- The values STATUS can hold (R24, R100, R103, R105): reserved bits 0; without an error, code 0; with one, a code of 1
to 4, and DONE beside an error only when the error is UNMAPPED. -/
def statusLegal (st : Byte) : Bool :=
  statusReserved st == 0#3 &&
    (if statusErr st then
      (statusErrCode st == 4#3 || (1 ≤ (statusErrCode st).toNat && (statusErrCode st).toNat ≤ 3 && !statusDone st))
    else statusErrCode st == 0#3)

end Sys2Proof.Machine
end

