-- ==== Sys2Proof/Machine/Ops.lean ====
section
/-! DEFINITION. The operations over the unit's storage (20_memory.md R33, R34, R36), and the recording of errors, which is
all this unit has for exceptions (60_exceptions.md R99, R102, R103, R105; R108 and R109: there is no entry and no return). -/

namespace Sys2Proof.Machine

/-- The canonical form of byte storage: addresses strictly rising. -/
def Memory.wf : Memory → Bool
  | [] => true
  | [_] => true
  | c :: d :: rest => decide (c.1 < d.1) && Memory.wf (d :: rest)

/-- The byte at an address, or none where it has no written mark. -/
def Memory.read : Memory → Nat → Option Byte
  | [], _ => none
  | c :: rest, a => if c.1 = a then some c.2 else Memory.read rest a

/-- The storage with one byte written, in canonical form. -/
def Memory.write : Memory → Nat → Byte → Memory
  | [], a, v => [(a, v)]
  | c :: rest, a, v =>
    if a < c.1 then (a, v) :: c :: rest
    else if c.1 = a then (a, v) :: rest
    else c :: Memory.write rest a v

/-- The storage with the bytes `0` to `n - 1` all written, byte `a` being `f a`. -/
def Memory.full (n : Nat) (f : Nat → Byte) : Memory := (List.range n).map fun a => (a, f a)

/-- What the 10-bit port address `a` reaches (R36 to R41). -/
def region (a : PortAddr) : Region :=
  if h : a.toNat < 0x100 then .batch ⟨a.toNat, h⟩
  else if h : a.toNat < 0x10A then .key ⟨a.toNat - 0x100, by omega⟩
  else if a.toNat = 0x110 then .cmd
  else if a.toNat = 0x111 then .status
  else if a.toNat = 0x112 then .round
  else if h : 0x200 ≤ a.toNat ∧ a.toNat < 0x300 then
    .plane ⟨(a.toNat - 0x200) / 4, by omega⟩ ⟨(a.toNat - 0x200) % 4, by omega⟩
  else .reserved

/-- Byte `a` of the batch, where written. -/
def State.readBatch (s : State) (a : Fin 256) : Option Byte := s.batch.read a.val

/-- `KEY[j]`, where written (R19, R28). -/
def State.readKey (s : State) (j : Fin 10) : Option Byte :=
  if s.keyMark[j] then some (byteAt s.key j.val) else none

/-- The number of byte `b` of plane `p` among PLANE's 256 bytes (R41). -/
def planeByteIndex (p : Fin 64) (b : Fin 4) : Fin 256 := ⟨4 * p.val + b.val, by omega⟩

/-- Byte `b` of `PLANE[p]`, where written (R28, R41). -/
def State.readPlane (s : State) (p : Fin 64) (b : Fin 4) : Option Byte :=
  if s.planeMark[planeByteIndex p b] then some (byteAt s.plane[p] b.val) else none

/-- What a host read at the port address `a` returns (R33): none where the byte has no written mark, `0x00` at a reserved
address (R42), `ROUND` with two zero bits above it (R21). -/
def State.peek (s : State) (a : PortAddr) : Option Byte :=
  match region a with
  | .batch x => s.readBatch x
  | .key j => s.readKey j
  | .cmd => some s.cmd
  | .status => some s.status
  | .round => some (s.round.setWidth 8)
  | .plane p b => s.readPlane p b
  | .reserved => some 0x00#8

/-- `BATCH[a] <- v`, which sets the mark (R28, R34). -/
def State.writeBatch (s : State) (a : Fin 256) (v : Byte) : State :=
  { s with batch := s.batch.write a.val v }

/-- `KEY[j] <- v`, which sets the mark (R28, R34). -/
def State.writeKey (s : State) (j : Fin 10) (v : Byte) : State :=
  { s with key := withByteAt s.key j.val v, keyMark := s.keyMark.set j.val true }

/-- `PLANE[p][8b+7:8b] <- v`, which sets the mark (R28, R34). -/
def State.writePlane (s : State) (p : Fin 64) (b : Fin 4) (v : Byte) : State :=
  { s with
    plane := s.plane.set p.val (withByteAt s.plane[p] b.val v)
    planeMark := s.planeMark.set (planeByteIndex p b).val true }

/-- A command writes all of BATCH, and so sets every mark of it (R28). -/
def State.setBatch (s : State) (f : Nat → Byte) : State := { s with batch := Memory.full 256 f }

/-- A command writes all of PLANE, and so sets every mark of it (R28). -/
def State.setPlanes (s : State) (p : Planes) : State :=
  { s with plane := p, planeMark := Vector.replicate 256 true }

/-- A command writes `KEY80`, and so sets every mark of KEY (R28). -/
def State.setKey (s : State) (k : Key) : State :=
  { s with key := k, keyMark := Vector.replicate 10 true }

/-- The start of the command byte `v`: `CMD <- v; STATUS <- 0x00` (R102). -/
def State.startCommand (s : State) (v : Byte) : State :=
  { s with cmd := v, status := statusCleared }

/-- `raise Error(c)` within a command (R103): it is recorded in STATUS, and nothing else changes. -/
def State.raiseError (s : State) (c : ErrorCode) : State := { s with status := statusOfError c }

/-- A command completes: `STATUS.DONE <- 1` (R102). -/
def State.complete (s : State) : State := { s with status := statusWithDone s.status }

/-- An unmapped access records UNMAPPED (R42, R105). -/
def State.recordUnmapped (s : State) : State := { s with status := statusWithUnmapped s.status }

/-- What a read leaves behind besides its byte: at a reserved address the record of UNMAPPED, elsewhere nothing (R33, R42,
R45). -/
def State.noteRead (s : State) (a : PortAddr) : State :=
  match region a with
  | .batch _ => s
  | .key _ => s
  | .cmd => s
  | .status => s
  | .round => s
  | .plane _ _ => s
  | .reserved => s.recordUnmapped

/-- A read of the host returns `b` (R33): the byte joins what the host has observed (R130). -/
def State.returnByte (s : State) (b : Byte) : State := { s with observed := s.observed ++ [b] }

/-- The unit takes the reset of R115; what the host has still to do and what it has read stay the host's (DESIGN CHOICE,
notes/assumptions/10.md; safe). -/
def State.takeReset (s : State) : State :=
  { State.reset with inputs := s.inputs, observed := s.observed }

end Sys2Proof.Machine
end

