-- ==== Sys2Proof/Machine/Operands.lean ====
section
/-! DEFINITION. The implicit operands of the commands (30_encoding.md R55) as views of the state, and the conditions under
which a command has them: the range of the round number (60_exceptions.md R101) and the written marks (10_state.md R28,
70_reset_and_hazards.md R119). -/

namespace Sys2Proof.Machine

/-- `BATCH[a]` as a command sees it. No command reads it where a byte of BATCH is unwritten (R28); there this view is a free
value, since R30 leaves it unspecified (DESIGN CHOICE, notes/assumptions/20.md; safe). -/
def State.batchByte (s : State) (a : Nat) : Byte := (s.batch.read a).getD (Config.unwrittenBatchByte a)

/-- `bit(k, i) = BATCH[8k + i/8][i % 8]` (R13). -/
def State.bit (s : State) (k : Fin 32) (i : Fin 64) : Bool :=
  (s.batchByte (8 * k.val + i.val / 8)).getLsbD (i.val % 8)

/-- `BLK(k)`, the block of lane `k` read little-endian (R13). -/
def State.blk (s : State) (k : Fin 32) : Block :=
  s.batchByte (8 * k.val + 7) ++ s.batchByte (8 * k.val + 6) ++ s.batchByte (8 * k.val + 5)
    ++ s.batchByte (8 * k.val + 4) ++ s.batchByte (8 * k.val + 3) ++ s.batchByte (8 * k.val + 2)
    ++ s.batchByte (8 * k.val + 1) ++ s.batchByte (8 * k.val)

/-- The round key `RK = KEY80[79:16]` (R20). -/
def roundKey (k : Key) : Block := k.extractLsb' 16 64

/-- Lane `k` of the planes, `{PLANE[63][k], ..., PLANE[0][k]}` (R70, R88). -/
def lane (p : Planes) (k : Fin 32) : Block := ofBits 64 fun i => p[i].getLsbD k.val

/-- Every byte of BATCH has its written mark. -/
def State.batchWritten (s : State) : Bool := (List.range 256).all fun a => (s.batch.read a).isSome

/-- Every byte of PLANE has its written mark. -/
def State.planeWritten (s : State) : Bool := s.planeMark.toList.all id

/-- Every byte of KEY has its written mark. -/
def State.keyWritten (s : State) : Bool := s.keyMark.toList.all id

/-- `KEY[2..9]`, the bytes that key mixing reads, have their written marks (R79). -/
def State.roundKeyWritten (s : State) : Bool := (s.keyMark.toList.drop 2).all id

/-- The round number of KSADV and ROUND is in 1..31; no other command reads `ROUND` (R101). -/
def State.roundInRange (s : State) : Command → Bool
  | .ksadv => decide (1 ≤ s.round.toNat ∧ s.round.toNat ≤ 31)
  | .round => decide (1 ≤ s.round.toNat ∧ s.round.toNat ≤ 31)
  | .nop => true
  | .encode => true
  | .decode => true
  | .keymix => true
  | .sbox => true
  | .player => true
  | .encrypt => true

/-- Every byte the command's pseudocode reads has its written mark (R28, R119). -/
def State.operandsWritten (s : State) : Command → Bool
  | .nop => true
  | .encode => s.batchWritten
  | .decode => s.planeWritten
  | .ksadv => s.keyWritten
  | .keymix => s.planeWritten && s.roundKeyWritten
  | .sbox => s.planeWritten
  | .player => s.planeWritten
  | .round => s.planeWritten && s.keyWritten
  | .encrypt => s.batchWritten && s.keyWritten

/-- A command `c` with the effect `effect`, as a host write of its byte to CMD runs it (R102): CMD and STATUS first, then the
range of the round number, then the operands' marks (the order of these two is DEDUCED, notes/assumptions/15.md; safe),
then the effect and DONE. The stop on an unmarked operand is the spec's own: such a command "does not run" and "no state
changes" (R28), UNINIT_READ is "a model fault" that is "never cleared" (60_exceptions.md R100), and the treatment is `fault`,
"the model stops the run with a named fault", and not `any value` (92 D13, 93 I6). -/
def runCommand (c : Command) (effect : State → State) (s : State) : Host.Outcome State Fault Refusal :=
  if s.roundInRange c then
    if s.operandsWritten c then .next (effect (s.startCommand c.byte)).complete
    else .fault (.uninitReadBy c)
  else .next ((s.startCommand c.byte).raiseError .roundRange)

end Sys2Proof.Machine
end

