-- ==== Sys2Proof/Machine/KeySchedule.lean ====
section
/-! DEFINITION. The S-box table, the key-schedule function and KSADV (42_key_schedule.md R71 to R75). -/

namespace Sys2Proof.Machine

/-- The S-box, indexed by nibble value (R71). -/
def sboxTable : Vector (BitVec 4) 16 :=
  #v[0xC, 0x5, 0x6, 0xB, 0x9, 0x0, 0xA, 0xD, 0x3, 0xE, 0xF, 0x8, 0x4, 0x7, 0x1, 0x2]

/-- `S[x]` (R71). -/
def sbox (x : BitVec 4) : BitVec 4 := sboxTable[x.toNat]'x.isLt

/-- Step 2 of the key schedule: `T[79:76] <- S[T[79:76]]` (R72). -/
def substituteTop (t : Key) : Key := sbox (t.extractLsb' 76 4) ++ t.extractLsb' 0 76

/-- Step 3 of the key schedule: `T[19:15] <- T[19:15] ^ r[4:0]` (R72). -/
def injectRound (t : Key) (r : Round) : Key := t ^^^ ((r.extractLsb' 0 5).setWidth 80 <<< 15)

/-- `KS(K, r)`: rotate right by 19, substitute the top nibble, inject the counter, in this order (R72, R75). -/
def keySchedule (k : Key) (r : Round) : Key := injectRound (substituteTop (rotr80 k Config.rot)) r

/-- The effect of the key schedule with round number `r`: `KEY80 <- KS(KEY80, r)` (R73). -/
def keyScheduleEffect (r : Round) (s : State) : State := s.setKey (keySchedule s.key r)

/-- KSADV (R73): the round number is `ROUND`, which stays as it is. -/
def execKsadv (s : State) : Host.Outcome State Fault Refusal :=
  runCommand .ksadv (fun t => keyScheduleEffect t.round t) s

end Sys2Proof.Machine
end

