-- ==== Sys2Proof/Machine/RoundEngine.lean ====
section
/-! DEFINITION. The Round Engine: KEYMIX, SBOX, PLAYER and ROUND (43_round_engine.md R79 to R90). -/

namespace Sys2Proof.Machine

/-- Key mixing: `PLANE[i] <- PLANE[i] ^ rep32(RK[i])` (R79, R80). -/
def keyMixed (p : Planes) (rk : Block) : Planes := tabulate 64 fun i => p[i] ^^^ rep32 (rk.getLsbD i.val)

/-- The nibble of group `g` in lane `k`, `{PLANE[4g+3][k], ..., PLANE[4g][k]}` (R81). -/
def nibble (p : Planes) (g : Fin 16) (k : Nat) : BitVec 4 :=
  BitVec.ofBool ((p[4 * g.val + 3]'(by omega)).getLsbD k)
    ++ BitVec.ofBool ((p[4 * g.val + 2]'(by omega)).getLsbD k)
    ++ BitVec.ofBool ((p[4 * g.val + 1]'(by omega)).getLsbD k)
    ++ BitVec.ofBool ((p[4 * g.val]'(by omega)).getLsbD k)

/-- The substitution layer: `PLANE[4g+j][k] <- S[x][j]`, with `x` the nibble of group `g` in lane `k` (R81). The S-box is
its table: the gate netlist is free and not observable (R83, 93 I1). -/
def substituted (p : Planes) : Planes :=
  tabulate 64 fun i => ofBits 32 fun k => (sbox (nibble p ⟨i.val / 4, by omega⟩ k.val)).getLsbD (i.val % 4)

/-- `P(i) = (i / 4) + (i % 4) * 16` (R84). -/
def permutedIndex (i : Fin 64) : Fin 64 := ⟨i.val / 4 + i.val % 4 * 16, by omega⟩

/-- The permutation into the buffer: `TMP[P(i)] <- PLANE[i]` for every `i` (R84). -/
def permutedInto (tmp p : Planes) : Planes :=
  (List.finRange 64).foldl (fun t i => t.set (permutedIndex i).val p[i]) tmp

/-- The effect of KEYMIX (R79). -/
def keyMixEffect (s : State) : State := s.setPlanes (keyMixed s.plane (roundKey s.key))

/-- The effect of SBOX (R81). -/
def sboxEffect (s : State) : State := s.setPlanes (substituted s.plane)

/-- The first half of PLAYER: every plane is read before any is written (R84, R86). -/
def fillTmp (s : State) : State := { s with tmp := permutedInto s.tmp s.plane }

/-- The effect of PLAYER: TMP is filled, then `PLANE[j] <- TMP[j]` for every `j` (R84, R26). -/
def playerEffect (s : State) : State := (fillTmp s).setPlanes (fillTmp s).tmp

/-- The effect of ROUND with round number `r`: key mixing with the key before this round's advance (R90), the two layers,
the key schedule, and `ROUND <- r + 1` (R87). -/
def roundEffect (r : Round) (s : State) : State :=
  { keyScheduleEffect r (playerEffect (sboxEffect (keyMixEffect s))) with round := r + 1#6 }

/-- KEYMIX (R79). -/
def execKeymix (s : State) : Host.Outcome State Fault Refusal := runCommand .keymix keyMixEffect s

/-- SBOX (R81). -/
def execSbox (s : State) : Host.Outcome State Fault Refusal := runCommand .sbox sboxEffect s

/-- PLAYER (R84). -/
def execPlayer (s : State) : Host.Outcome State Fault Refusal := runCommand .player playerEffect s

/-- ROUND (R87). -/
def execRound (s : State) : Host.Outcome State Fault Refusal :=
  runCommand .round (fun t => roundEffect t.round t) s

end Sys2Proof.Machine
end

