-- ==== Sys2Proof/Machine/Transpose.lean ====
section
/-! DEFINITION. The Bit-Transpose: ENCODE and DECODE (41_transpose.md R65, R66). Each writes every bit of its destination,
so nothing of the earlier contents is left (R69). -/

namespace Sys2Proof.Machine

/-- The bit planes of the batch: `PLANE[i][k] <- bit(k, i)` (R65). -/
def encodedPlanes (s : State) : Planes := tabulate 64 fun i => ofBits 32 fun k => s.bit k i

/-- Byte `a` of the batch that the planes hold: `BATCH[8k + i/8][i % 8] <- PLANE[i][k]`, read for byte `a` at its block
`k = a / 8` and, for its bit `t`, at the plane `i = 8 (a % 8) + t` (R66). -/
def decodedByte (p : Planes) (a : Nat) : Byte :=
  ofBits 8 fun t => (p[8 * (a % 8) + t.val]'(by omega)).getLsbD (a / 8)

/-- The effect of ENCODE (R65). -/
def encodeEffect (s : State) : State := s.setPlanes (encodedPlanes s)

/-- The effect of DECODE (R66). -/
def decodeEffect (s : State) : State := s.setBatch (decodedByte s.plane)

/-- ENCODE (R65). -/
def execEncode (s : State) : Host.Outcome State Fault Refusal := runCommand .encode encodeEffect s

/-- DECODE (R66). -/
def execDecode (s : State) : Host.Outcome State Fault Refusal := runCommand .decode decodeEffect s

end Sys2Proof.Machine
end

