-- ==== Sys2Proof/Machine/Driver.lean ====
section
/-! DEFINITION. The Cipher Driver: ENCRYPT through its sequencer, and NOP (44_driver.md R91, R92, 10_state.md R27); then the
effect of every command by its name. -/

namespace Sys2Proof.Machine

/-- The phase after the four sub-steps of round `r`: the next round, or after round 31 the whitening (R27, R91, R97). -/
def phaseAfterRound (r : Round) : Phase := if r = 31#6 then .whiten else .rnd (r + 1#6) .keyMix

/-- One phase of the sequencer: its effect, and the phase that follows (R27, R91). -/
def sequencerStep (s : State) : State :=
  match s.phase with
  | .idle => s
  | .enc => { encodeEffect s with round := 1#6, phase := .rnd 1#6 .keyMix }
  | .rnd r .keyMix => { keyMixEffect s with phase := .rnd r .substitute }
  | .rnd r .substitute => { sboxEffect s with phase := .rnd r .permute }
  | .rnd r .permute => { playerEffect s with phase := .rnd r .keyScheduleAdvance }
  | .rnd r .keyScheduleAdvance => { keyScheduleEffect r s with round := r + 1#6, phase := phaseAfterRound r }
  | .whiten => { keyMixEffect s with phase := .dec }
  | .dec => { decodeEffect s with phase := .idle }

/-- The sequencer for `n` phases. -/
def runSequencer : Nat → State → State
  | 0, s => s
  | n + 1, s => runSequencer n (sequencerStep s)

/-- The phases of one ENCRYPT: ENC, four for each of the 31 rounds, WHITEN and DEC (R27). -/
def encryptPhases : Nat := 1 + 4 * Config.rounds + 2

/-- The effect of ENCRYPT: the sequencer from ENC until it is idle again (R91). -/
def encryptEffect (s : State) : State := runSequencer encryptPhases { s with phase := .enc }

/-- The rounds of R91's loop, for the round numbers of the list in order. -/
def roundLoop : List Round → State → State
  | [], s => s
  | r :: rest, s => roundLoop rest (roundEffect r s)

/-- The round numbers 1 to 31 (R91). -/
def roundNumbers : List Round := (List.range Config.rounds).map fun n => BitVec.ofNat 6 (n + 1)

/-- R91's pseudocode line by line: ENCODE, `ROUND <- 1`, the rounds 1 to 31, the whitening, DECODE. The meaning of ENCRYPT is
the sequencer's; that the two agree is a statement about them. -/
def encryptPseudocode (s : State) : State :=
  decodeEffect (keyMixEffect (roundLoop roundNumbers { encodeEffect s with round := 1#6 }))

/-- ENCRYPT (R91). -/
def execEncrypt (s : State) : Host.Outcome State Fault Refusal := runCommand .encrypt encryptEffect s

/-- NOP (R92): no effect but the start and the completion of a command. -/
def execNop (s : State) : Host.Outcome State Fault Refusal := runCommand .nop (fun t => t) s

/-- The effect of each command between its start and its completion, the `perform op` of R102 (R65 to R92). The meanings are the
nine definitions exec<Command>; this view of them by command serves the statements about every command. -/
def commandEffect : Command → State → State
  | .nop => fun t => t
  | .encode => encodeEffect
  | .decode => decodeEffect
  | .ksadv => fun t => keyScheduleEffect t.round t
  | .keymix => keyMixEffect
  | .sbox => sboxEffect
  | .player => playerEffect
  | .round => fun t => roundEffect t.round t
  | .encrypt => encryptEffect

end Sys2Proof.Machine
end

