-- ==== Sys2Proof/Machine/Port.lean ====
section
/-! DEFINITION. The host port: RD and WR (20_memory.md R33, R34), the write to CMD (60_exceptions.md R102), and what the
unit does with what the host puts on the port. -/

namespace Sys2Proof.Machine

/-- Running a decoded command: the meaning of its mnemonic (R62, R102). -/
def performCommand (c : Command) (s : State) : Host.Outcome State Fault Refusal :=
  match c with
  | .nop => execNop s
  | .encode => execEncode s
  | .decode => execDecode s
  | .ksadv => execKsadv s
  | .keymix => execKeymix s
  | .sbox => execSbox s
  | .player => execPlayer s
  | .round => execRound s
  | .encrypt => execEncrypt s

/-- The error a rejected command byte raises (R56, R57, R64). -/
def commandError (v : Byte) : ErrorCode := if v.extractLsb' 4 4 ≠ 0#4 then .reservedBits else .illegalOp

/-- A host write of byte `v` to CMD (R102): a legal byte runs its command, any other is kept in CMD and recorded as
RESERVED_BITS or ILLEGAL_OP (R103, R104). -/
def writeCommand (v : Byte) (s : State) : Host.Outcome State Fault Refusal :=
  match decodeCommand v with
  | .ok c => performCommand c s
  | .error _ => .next ((s.startCommand v).raiseError (commandError v))

/-- WR A, D (R34). -/
def execWr (a : PortAddr) (d : Byte) (s : State) : Host.Outcome State Fault Refusal :=
  match region a with
  | .batch x => .next (s.writeBatch x d)
  | .key j => .next (s.writeKey j d)
  | .cmd => writeCommand d s
  | .status => .next s
  | .round => .next { s with round := d.extractLsb' 0 6 }
  | .plane p b => .next (s.writePlane p b d)
  | .reserved => .next s.recordUnmapped

/-- RD A (R33): the byte at the address, or UNINIT_READ naming the address where it has no written mark (R28). That the read
stops there is the spec's own: "The model faults with `UNINIT_READ`" (R33), with the treatment `fault`, "the model stops the
run with a named fault", and not `any value` (92 D13, 93 I6). -/
def execRd (a : PortAddr) (s : State) : Host.Outcome State Fault Refusal :=
  match s.peek a with
  | some v => .next ((s.noteRead a).returnByte v)
  | none => .fault (.uninitReadAt a)

/-- A word of the host that decodes to no instruction. A command byte is what the host writes to CMD, so a rejected one
raises its error there (DEDUCED, notes/assumptions/4.md; safe); any other such word is no transaction and is refused
(R59, 93 I17). -/
def rejectWord (bytes : List Byte) (e : DecodeError) (s : State) : Host.Outcome State Fault Refusal :=
  match e with
  | .reservedBits v => writeCommand v s
  | .illegalOp v => writeCommand v s
  | .highBits _ => .refused (.notATransaction bytes)
  | .readWithData _ => .refused (.notATransaction bytes)
  | .noSuchLength _ => .refused (.notATransaction bytes)

/-- Reset while a CMD write is stalled: the command is abandoned before any of it can be observed, and the unit is in the
reset state (R116). -/
def abandonCommand (_v : Byte) (s : State) : Host.Outcome State Fault Refusal := .next s.takeReset

end Sys2Proof.Machine
end

