-- ==== Sys2Proof/Machine/Dispatch.lean ====
section
/-! DEFINITION. One arm for each row of spec/opcode_table.json. -/

namespace Sys2Proof.Machine

def exec (i : Instr) (s : State) : Host.Outcome State Fault Refusal :=
  match i with
  | .nop => Sys2Proof.Machine.execNop s
  | .encode => Sys2Proof.Machine.execEncode s
  | .decode => Sys2Proof.Machine.execDecode s
  | .ksadv => Sys2Proof.Machine.execKsadv s
  | .keymix => Sys2Proof.Machine.execKeymix s
  | .sbox => Sys2Proof.Machine.execSbox s
  | .player => Sys2Proof.Machine.execPlayer s
  | .round => Sys2Proof.Machine.execRound s
  | .encrypt => Sys2Proof.Machine.execEncrypt s
  | .wr a d => Sys2Proof.Machine.execWr a d s
  | .rd a => Sys2Proof.Machine.execRd a s

end Sys2Proof.Machine
end

