-- ==== Sys2Proof/Machine/Step.lean ====
section
/-! DEFINITION. One step of the machine: the next thing the host puts on the port, taken whole (00_scope.md R10,
20_memory.md R32, R35). There is no program counter and no fetch (10_state.md R29): the host's program stands in
`State.inputs` (DESIGN CHOICE, notes/assumptions/1.md; safe). -/

namespace Sys2Proof.Machine

/-- One step. With nothing left on the port the unit is idle and holds every register (60_exceptions.md R114; DESIGN
CHOICE, notes/assumptions/2.md; safe). -/
def step (s : State) : Host.Outcome State Fault Refusal :=
  match s.inputs with
  | [] => .next s
  | .rst :: rest => .next (State.takeReset { s with inputs := rest })
  | .rstInCommand v :: rest => abandonCommand v { s with inputs := rest }
  | .word bytes :: rest =>
    match decode bytes with
    | .ok i => exec i { s with inputs := rest }
    | .error e => rejectWord bytes e { s with inputs := rest }

/-- The state whose next step runs the word `w` of `nbits` bits: the word stands first on the port. -/
def State.withFetchWord (s : State) (nbits w : Nat) : State :=
  { s with inputs := .word (tableBytes nbits w) :: s.inputs }

end Sys2Proof.Machine
end

