-- ==== Sys2Proof/Machine/Macros.lean ====
section
/-! DEFINITION. The macro pseudo-instructions of 30_encoding.md R63, each the list of transactions it expands to, and the
running of such a list. -/

namespace Sys2Proof.Machine

/-- The port address of `BATCH[8k + j]` (R37). -/
def batchAddr (k : Fin 32) (j : Fin 8) : PortAddr := BitVec.ofNat 10 (8 * k.val + j.val)

/-- The port address of `KEY[j]` (R38). -/
def keyAddr (j : Fin 10) : PortAddr := BitVec.ofNat 10 (0x100 + j.val)

/-- The port address of byte `b` of `PLANE[p]` (R41). -/
def planeAddr (p : Fin 64) (b : Fin 4) : PortAddr := BitVec.ofNat 10 (0x200 + 4 * p.val + b.val)

/-- `SETROUND r`. -/
def setRound (r : Byte) : List Instr := [.wr 0x112#10 r]

/-- `SETKEY K`: `WR 0x100 + j, K[8j+7:8j]` for `j` = 0..9. -/
def setKeyMacro (k : Key) : List Instr := (List.finRange 10).map fun j => .wr (keyAddr j) (byteAt k j.val)

/-- `LOADBLK k, V`: `WR 8k + j, V[8j+7:8j]` for `j` = 0..7. -/
def loadBlk (k : Fin 32) (v : Block) : List Instr := (List.finRange 8).map fun j => .wr (batchAddr k j) (byteAt v j.val)

/-- `LOADALL V`: `LOADBLK k, V` for `k` = 0..31. -/
def loadAll (v : Block) : List Instr := (List.finRange 32).flatMap fun k => loadBlk k v

/-- `READBLK k`. -/
def readBlk (k : Fin 32) : List Instr := (List.finRange 8).map fun j => .rd (batchAddr k j)

/-- `READKEY`. -/
def readKeyMacro : List Instr := (List.finRange 10).map fun j => .rd (keyAddr j)

/-- `READPLANE p`. -/
def readPlaneMacro (p : Fin 64) : List Instr := (List.finRange 4).map fun b => .rd (planeAddr p b)

/-- `REPEAT n` of a body: textual copies, no hardware loop. -/
def repeatBody (n : Nat) (body : List Instr) : List Instr := (List.replicate n body).flatten

/-- `REPEAT v = a..b` of a body: one copy for each value. -/
def repeatFor (a b : Nat) (body : Nat → List Instr) : List Instr :=
  (List.range (b + 1 - a)).flatMap fun n => body (a + n)

/-- Instructions one after another, in issue order (20_memory.md R32, R48), stopping where one stops. -/
def execAll : List Instr → State → Host.Outcome State Fault Refusal
  | [], s => .next s
  | i :: rest, s =>
    match exec i s with
    | .next t => execAll rest t
    | .fault f => .fault f
    | .refused r => .refused r

end Sys2Proof.Machine
end

