-- ==== Sys2Proof/Machine/Reference.lean ====
section
/-! DEFINITION. What the unit is held to, no part of the hardware: the reference cipher (44_driver.md R93), the key sequence
(42_key_schedule.md R76), and the byte-level form of the key schedule (R74). -/

namespace Sys2Proof.Machine

/-- `{S[s[63:60]], ..., S[s[7:4]], S[s[3:0]]}` (R88, R93). -/
def sBoxLayer (s : Block) : Block :=
  ofBits 64 fun i => (sbox (s.extractLsb' (4 * (i.val / 4)) 4)).getLsbD (i.val % 4)

/-- `Q(i) = (16 i) mod 63` for `i < 63`, and `Q(63) = 63` (R93). -/
def referenceIndex (i : Nat) : Nat := if i < 63 then 16 * i % 63 else 63

/-- `t` where `t[Q(i)] = s[i]`: each bit of `s` put at its place (R93). -/
def pLayer (s : Block) : Block :=
  (List.range 64).foldl (fun t i => t ||| (if s.getLsbD i then 1#64 <<< referenceIndex i else 0#64)) 0#64

/-- One round of the reference cipher on a block, under a round key (R88, R93). -/
def referenceRound (s rk : Block) : Block := pLayer (sBoxLayer (s ^^^ rk))

/-- The rounds of `encrypt_ref` for the round numbers of the list in order, on the block and the key (R93). -/
def referenceRounds : List Round → Block × Key → Block × Key
  | [], x => x
  | r :: rest, (s, k) => referenceRounds rest (referenceRound s (k.extractLsb' 16 64), keySchedule k r)

/-- The round numbers of the reference cipher, 1 to 31 (R93). -/
def referenceNumbers : List Round := (List.range 31).map fun n => BitVec.ofNat 6 (n + 1)

/-- `encrypt_ref(B, K)` (R93). -/
def encryptRef (b : Block) (k : Key) : Block :=
  let out := referenceRounds referenceNumbers (b, k)
  out.1 ^^^ out.2.extractLsb' 16 64

/-- The key sequence: `keySequence K n` is `K_{n+1}`, with `K_1 = K` and `K_{r+1} = KS(K_r, r)` (R76). -/
def keySequence (k : Key) : Nat → Key
  | 0 => k
  | n + 1 => keySchedule (keySequence k n) (BitVec.ofNat 6 (n + 1))

/-- The byte-level form of the key schedule (R74): the ten bytes of the rotated key, changed one by one. -/
def keyScheduleByte (k : Key) (r : Round) (j : Nat) : Byte :=
  let t := byteAt (rotr80 k 19) j
  if j = 9 then sbox (t.extractLsb' 4 4) ++ t.extractLsb' 0 4
  else if j = 1 then t ^^^ (r.setWidth 8 <<< 7)
  else if j = 2 then t ^^^ (r.setWidth 8 >>> 1)
  else t

end Sys2Proof.Machine
end

