-- ==== Sys2Proof/Machine/Timing.lean ====
section
/-! DEFINITION. The cycles of a transaction (70_reset_and_hazards.md R128, R129) in terms of the OPEN parameters. Time is no
part of the state, since the unit has no counter and no rule depends on a latency (60_exceptions.md R112; notes/assumptions/
11.md, safe). -/

namespace Sys2Proof.Machine

/-- `LAT_<op>`: a positive number of cycles (R128). -/
def latency (c : Command) : Nat := Config.extraCycles c + 1

/-- `LAT_ERR`: a positive number of cycles (R128). -/
def errorLatency : Nat := Config.extraErrorCycles + 1

/-- The cycles from a write of byte `v` to CMD to its `ack`: `LAT_<op>` of the command, `LAT_ERR` when it fails (R128). -/
def commandCycles (v : Byte) (s : State) : Nat :=
  match decodeCommand v with
  | .ok c => if s.roundInRange c then latency c else errorLatency
  | .error _ => errorLatency

/-- The cycles of one instruction from `req` to `ack` (R128, R129). -/
def transactionCycles (i : Instr) (s : State) : Nat :=
  match i with
  | .nop => commandCycles Command.nop.byte s
  | .encode => commandCycles Command.encode.byte s
  | .decode => commandCycles Command.decode.byte s
  | .ksadv => commandCycles Command.ksadv.byte s
  | .keymix => commandCycles Command.keymix.byte s
  | .sbox => commandCycles Command.sbox.byte s
  | .player => commandCycles Command.player.byte s
  | .round => commandCycles Command.round.byte s
  | .encrypt => commandCycles Command.encrypt.byte s
  | .wr a d => if region a = .cmd then commandCycles d s else Config.busCycles true a
  | .rd a => Config.busCycles false a

/-- Where a port address stands in the host system (`PLATFORM_BASE`, R46). -/
def systemAddress (a : PortAddr) : Nat := Config.platformBase + a.toNat

end Sys2Proof.Machine
end

