-- ==== Sys2Proof/Safety.lean ====
section
/-! DEFINITION. What counts as a good run (70_reset_and_hazards.md R130), the invariant of the machine, and when two states
are alike as far as the unit may look at them (10_state.md R28). -/

namespace Sys2Proof.Machine

/-- The start of a run: the reset state with the host program waiting (R130). -/
def loaded (program : List HostInput) : State := { State.reset with inputs := program }

/-- The run of a host program: a step for each of its inputs (R130). -/
def runProgram (program : List HostInput) : Host.Outcome State Fault Refusal :=
  core.run program.length (loaded program)

/-- A good run: it recorded no UNINIT_READ fault (R130). -/
def goodRun (program : List HostInput) : Prop := ∀ f, runProgram program ≠ .fault f

/-- BATCH is in canonical form and lies at the addresses 0x000 to 0x0FF (R36, R37). -/
def State.batchWf (s : State) : Bool := s.batch.wf && s.batch.all fun c => decide (c.1 < 256)

/-- The invariant of the machine: BATCH is canonical, STATUS holds a value of R24 and R100, the sequencer is idle (R27). -/
def State.inv (s : State) : Bool := s.batchWf && statusLegal s.status && (s.phase == .idle)

/-- Two states that differ at most in what is unspecified: the values of PLANE's and KEY's bytes that have no written mark
(R28, R30), and TMP (R26). -/
structure Alike (s t : State) : Prop where
  batch : s.batch = t.batch
  planeMark : s.planeMark = t.planeMark
  keyMark : s.keyMark = t.keyMark
  plane : ∀ p b, s.readPlane p b = t.readPlane p b
  key : ∀ j, s.readKey j = t.readKey j
  round : s.round = t.round
  cmd : s.cmd = t.cmd
  status : s.status = t.status
  phase : s.phase = t.phase
  inputs : s.inputs = t.inputs
  observed : s.observed = t.observed

/-- Two outcomes that no host can tell apart. -/
def outcomesAlike : Host.Outcome State Fault Refusal → Host.Outcome State Fault Refusal → Prop
  | .next s, .next t => Alike s t
  | .fault f, .fault g => f = g
  | .refused r, .refused q => r = q
  | .next _, .fault _ => False
  | .next _, .refused _ => False
  | .fault _, .next _ => False
  | .fault _, .refused _ => False
  | .refused _, .next _ => False
  | .refused _, .fault _ => False

end Sys2Proof.Machine
end

