-- ==== Sys2Proof/Certificates/Slice0/Obligations.lean ====
section
/-! DEFINITION. The statements for the provers. They formalise rules of spec/ about this machine; none of them is about a
program. A statement that rests on a choice of the model's says so in its docstring and names the log entry. -/

namespace Sys2Proof.Claims

open Sys2Proof.Machine

/-- Every byte of BATCH reads as before. -/
def sameBatch (s t : State) : Prop := ∀ a : Fin 256, t.readBatch a = s.readBatch a

/-- PLANE and its marks are as before. -/
def samePlanes (s t : State) : Prop := t.plane = s.plane ∧ t.planeMark = s.planeMark

/-- KEY and its marks are as before. -/
def sameKey (s t : State) : Prop := t.key = s.key ∧ t.keyMark = s.keyMark

/-- The buffer TMP and the sequencer are as before. Neither is architectural; that a command other than PLAYER, ROUND and
ENCRYPT leaves TMP as it is, is the model's (notes/assumptions/8.md). -/
def sameHidden (s t : State) : Prop := t.tmp = s.tmp ∧ t.phase = s.phase

/-- What the host has still to do, and what it has read, are as before. -/
def samePort (s t : State) : Prop := t.inputs = s.inputs ∧ t.observed = s.observed

/-- CMD holds the command's byte and STATUS is 0x01: the command completed. -/
def completed (c : Command) (t : State) : Prop := t.cmd = c.byte ∧ t.status = 0x01#8

/-- Two outcomes that agree but for the value of ROUND. -/
def sameButRound : Host.Outcome State Fault Refusal → Host.Outcome State Fault Refusal → Prop
  | .next t, .next u => { t with round := u.round } = u
  | .fault f, .fault g => f = g
  | .refused r, .refused q => r = q
  | .next _, .fault _ => False
  | .next _, .refused _ => False
  | .fault _, .next _ => False
  | .fault _, .refused _ => False
  | .refused _, .next _ => False
  | .refused _, .fault _ => False

/-- The address is one of the reserved ones (R40). -/
def reservedAddress (a : PortAddr) : Prop :=
  (0x10A ≤ a.toNat ∧ a.toNat ≤ 0x10F) ∨ (0x113 ≤ a.toNat ∧ a.toNat ≤ 0x1FF) ∨ (0x300 ≤ a.toNat ∧ a.toNat ≤ 0x3FF)

/-- STATUS after an unmapped access, against STATUS before (R105). -/
def unmappedRecorded (before after : Byte) : Prop :=
  statusErr after = true ∧ statusErrCode after = 4#3 ∧ statusDone after = statusDone before ∧
    statusReserved after = statusReserved before

end Sys2Proof.Claims

open Sys2Proof Sys2Proof.Machine Sys2Proof.Claims

/-! ### Reset and the host's side -/

/-- R115: what reset leaves. That a reset is an input of the queue, and that it leaves the host's own lists, is the model's
(notes/assumptions/10.md); that the sequencer is idle is DEDUCED (notes/assumptions/9.md). The second clause equates the
whole next state with `State.reset`, so it also says that PLANE, KEY and TMP hold the model's own zeros there, which R30 leaves
unspecified (notes/assumptions/5.md and 8.md, both unsafe). -/
def Obligations.ResetClearsControlRegistersAndMarks : Prop :=
  (State.reset.round = 0#6 ∧ State.reset.cmd = 0x00#8 ∧ State.reset.status = 0x00#8 ∧ State.reset.phase = .idle ∧
    (∀ a, State.reset.readBatch a = none) ∧ (∀ j, State.reset.readKey j = none) ∧
    (∀ p b, State.reset.readPlane p b = none)) ∧
  ∀ (s : State) (rest : List HostInput), s.inputs = .rst :: rest →
    step s = .next { State.reset with inputs := rest, observed := s.observed }

/-- R116: a command during which reset is asserted leaves nothing but the reset state. The form of the input is the model's
(notes/assumptions/10.md), and so are the zeros in PLANE, KEY and TMP of the reset state, which R30 leaves unspecified
(notes/assumptions/5.md and 8.md, both unsafe). -/
def Obligations.ResetAbandonsStalledCommand : Prop :=
  ∀ (s : State) (v : Byte) (rest : List HostInput), s.inputs = .rstInCommand v :: rest →
    step s = .next { State.reset with inputs := rest, observed := s.observed }

/-- A step runs the decoded instruction on the state with the word taken from the port; the same for the word of
`withFetchWord`. The queue is the model's form of the host program (notes/assumptions/1.md). -/
def Obligations.StepRunsTheDecodedInstruction : Prop :=
  (∀ (s : State) (bytes : List Byte) (rest : List HostInput) (i : Instr), s.inputs = .word bytes :: rest →
    decode bytes = .ok i → step s = exec i { s with inputs := rest }) ∧
  ∀ (s : State) (nbits w : Nat) (i : Instr), decodeTableWord nbits w = some i → step (s.withFetchWord nbits w) = exec i s

/-- R59: a word that is no transaction is refused, and nothing runs; a command byte that is no command is not refused, it
raises its error; and whatever a step refuses is such a word. That it is the step that refuses is DEDUCED
(notes/assumptions/13.md), and so is the second clause (notes/assumptions/4.md). -/
def Obligations.StepRefusesOnlyWordsThatAreNoTransaction : Prop :=
  (∀ (s : State) (bytes : List Byte) (rest : List HostInput), s.inputs = .word bytes :: rest → bytes.length ≠ 1 →
    WellFormed.word bytes = false → step s = .refused (.notATransaction bytes)) ∧
  (∀ (s : State) (v : Byte) (rest : List HostInput), s.inputs = .word [v] :: rest →
    step s = exec (.wr 0x110#10 v) { s with inputs := rest }) ∧
  ∀ (s : State) (r : Refusal), step s = .refused r →
    ∃ (bytes : List Byte) (rest : List HostInput), s.inputs = .word bytes :: rest ∧ bytes.length ≠ 1 ∧
      WellFormed.word bytes = false ∧ r = .notATransaction bytes

/-- R114: between commands the unit holds every register. That an empty queue is an idle step is the model's
(notes/assumptions/2.md). -/
def Obligations.IdleUnitHoldsEveryRegister : Prop :=
  ∀ s : State, s.inputs = [] → step s = .next s

/-! ### Decoding -/

/-- Words that the spec writes out: R59's two examples and R62's nine (its word for ENCRYPT is the first of R59's), 0x3FF00 of
95_test_vectors.md P4, and the nine command bytes of R54. 0x41F55 is worked out from R59's fields: W = 1, A = 0x01F,
D = 0x55. -/
def Obligations.DecodesTheWordsOfTheSpec : Prop :=
  decodeTableWord 24 0x51008 = some (.wr 0x110#10 0x08#8) ∧ decodeTableWord 24 0x11100 = some (.rd 0x111#10) ∧
  decodeTableWord 24 0x51000 = some (.wr 0x110#10 0x00#8) ∧ decodeTableWord 24 0x51001 = some (.wr 0x110#10 0x01#8) ∧
  decodeTableWord 24 0x51002 = some (.wr 0x110#10 0x02#8) ∧ decodeTableWord 24 0x51003 = some (.wr 0x110#10 0x03#8) ∧
  decodeTableWord 24 0x51004 = some (.wr 0x110#10 0x04#8) ∧ decodeTableWord 24 0x51005 = some (.wr 0x110#10 0x05#8) ∧
  decodeTableWord 24 0x51006 = some (.wr 0x110#10 0x06#8) ∧ decodeTableWord 24 0x51007 = some (.wr 0x110#10 0x07#8) ∧
  decodeTableWord 24 0x41F55 = some (.wr 0x01F#10 0x55#8) ∧ decodeTableWord 24 0x3FF00 = some (.rd 0x3FF#10) ∧
  decodeTableWord 8 0x00 = some .nop ∧ decodeTableWord 8 0x01 = some .encode ∧ decodeTableWord 8 0x02 = some .decode ∧
  decodeTableWord 8 0x03 = some .ksadv ∧ decodeTableWord 8 0x04 = some .keymix ∧ decodeTableWord 8 0x05 = some .sbox ∧
  decodeTableWord 8 0x06 = some .player ∧ decodeTableWord 8 0x07 = some .round ∧ decodeTableWord 8 0x08 = some .encrypt

/-- Decoding an encoded instruction gives it back, for every instruction and every operand. -/
def Obligations.DecodeOfEncodeIsTheInstruction : Prop :=
  ∀ i : Instr, decode (encode i) = .ok i

/-- A word has one meaning: what decodes to an instruction is that instruction's encoding, bit for bit. -/
def Obligations.EncodeOfDecodeIsTheWord : Prop :=
  ∀ (bytes : List Byte) (i : Instr), decode bytes = .ok i → encode i = bytes

/-- The decoder accepts exactly the words that pass the checks of R53, R56, R57, R59 and R60. -/
def Obligations.DecoderAcceptsExactlyTheWellFormedWords : Prop :=
  ∀ bytes : List Byte, (∃ i, decode bytes = .ok i) ↔ WellFormed.word bytes = true

/-- R58 and R64: of the 256 command bytes, 0x00..0x08 are the commands, 0x09..0x0F are illegal and 0x10..0xFF reserved. -/
def Obligations.CommandBytesAreLegalIllegalOrReserved : Prop :=
  ∀ v : Byte, (v.toNat ≤ 0x08 → ∃ c : Command, decodeCommand v = .ok c ∧ c.byte = v) ∧
    (0x09 ≤ v.toNat ∧ v.toNat ≤ 0x0F → decodeCommand v = .error (.illegalOp v)) ∧
    (0x10 ≤ v.toNat → decodeCommand v = .error (.reservedBits v))

/-! ### The port -/

/-- R33: what a host read returns at every address, and that it leaves everything else as it is; a byte with no written mark
is the fault UNINIT_READ, naming the address. -/
def Obligations.ReadReturnsTheMappedByte : Prop :=
  ∀ (a : PortAddr) (s : State),
    (∀ x : Fin 256, a.toNat = x.val → ∀ v, s.readBatch x = some v →
      exec (.rd a) s = .next { s with observed := s.observed ++ [v] }) ∧
    (∀ x : Fin 256, a.toNat = x.val → s.readBatch x = none → exec (.rd a) s = .fault (.uninitReadAt a)) ∧
    (∀ j : Fin 10, a.toNat = 0x100 + j.val → s.keyMark[j] = true →
      exec (.rd a) s = .next { s with observed := s.observed ++ [byteAt s.key j.val] }) ∧
    (∀ j : Fin 10, a.toNat = 0x100 + j.val → s.keyMark[j] = false → exec (.rd a) s = .fault (.uninitReadAt a)) ∧
    (a = 0x110#10 → exec (.rd a) s = .next { s with observed := s.observed ++ [s.cmd] }) ∧
    (a = 0x111#10 → exec (.rd a) s = .next { s with observed := s.observed ++ [s.status] }) ∧
    (a = 0x112#10 → exec (.rd a) s = .next { s with observed := s.observed ++ [0#2 ++ s.round] }) ∧
    (∀ (p : Fin 64) (b : Fin 4), a.toNat = 0x200 + 4 * p.val + b.val → s.planeMark[planeByteIndex p b] = true →
      exec (.rd a) s = .next { s with observed := s.observed ++ [s.plane[p].extractLsb' (8 * b.val) 8] }) ∧
    (∀ (p : Fin 64) (b : Fin 4), a.toNat = 0x200 + 4 * p.val + b.val → s.planeMark[planeByteIndex p b] = false →
      exec (.rd a) s = .fault (.uninitReadAt a)) ∧
    (reservedAddress a → ∃ t, exec (.rd a) s = .next t ∧ t.observed = s.observed ++ [0x00#8] ∧
      unmappedRecorded s.status t.status ∧ { s with observed := t.observed, status := t.status } = t)

/-- R34 at BATCH: the byte at the address is the data and has its mark; nothing else changes. -/
def Obligations.WriteToBatchChangesOneByte : Prop :=
  ∀ (a : PortAddr) (d : Byte) (s : State) (x : Fin 256), a.toNat = x.val →
    ∃ t, exec (.wr a d) s = .next t ∧ t.readBatch x = some d ∧
      (∀ y : Fin 256, y ≠ x → t.readBatch y = s.readBatch y) ∧ { s with batch := t.batch } = t

/-- R34 at KEY: the same for `KEY[j]` and the bits of `KEY80`. -/
def Obligations.WriteToKeyChangesOneByte : Prop :=
  ∀ (a : PortAddr) (d : Byte) (s : State) (j : Fin 10), a.toNat = 0x100 + j.val →
    ∃ t, exec (.wr a d) s = .next t ∧ t.readKey j = some d ∧
      (∀ n, n < 80 → t.key.getLsbD n =
        if 8 * j.val ≤ n ∧ n < 8 * j.val + 8 then d.getLsbD (n - 8 * j.val) else s.key.getLsbD n) ∧
      (∀ i : Fin 10, i ≠ j → t.readKey i = s.readKey i) ∧ { s with key := t.key, keyMark := t.keyMark } = t

/-- R34 and R41 at PLANE: the eight bits of one byte of one plane, and nothing else. -/
def Obligations.WriteToPlaneChangesOneByte : Prop :=
  ∀ (a : PortAddr) (d : Byte) (s : State) (p : Fin 64) (b : Fin 4), a.toNat = 0x200 + 4 * p.val + b.val →
    ∃ t, exec (.wr a d) s = .next t ∧ t.readPlane p b = some d ∧
      (∀ n, n < 32 → t.plane[p].getLsbD n =
        if 8 * b.val ≤ n ∧ n < 8 * b.val + 8 then d.getLsbD (n - 8 * b.val) else s.plane[p].getLsbD n) ∧
      (∀ q : Fin 64, q ≠ p → t.plane[q] = s.plane[q]) ∧
      (∀ (q : Fin 64) (c : Fin 4), (q, c) ≠ (p, b) → t.readPlane q c = s.readPlane q c) ∧
      { s with plane := t.plane, planeMark := t.planeMark } = t

/-- R21, R24: a write to STATUS does nothing and reports no error; a write to ROUND keeps bits 5:0, whatever they are. -/
def Obligations.WritesToStatusAndRound : Prop :=
  ∀ (d : Byte) (s : State), exec (.wr 0x111#10 d) s = .next s ∧
    exec (.wr 0x112#10 d) s = .next { s with round := d.extractLsb' 0 6 }

/-- R42 and R105: an access at a reserved address goes on, reads 0x00 or writes nothing, and records UNMAPPED with DONE kept. -/
def Obligations.UnmappedAccessIsRecordedAndChangesNothingElse : Prop :=
  ∀ (a : PortAddr) (d : Byte) (s : State), reservedAddress a →
    (∃ t, exec (.wr a d) s = .next t ∧ unmappedRecorded s.status t.status ∧ { s with status := t.status } = t) ∧
    (∃ t, exec (.rd a) s = .next t ∧ t.observed = s.observed ++ [0x00#8] ∧ unmappedRecorded s.status t.status ∧
      { s with status := t.status, observed := t.observed } = t)

/-- R14 and R48: a host read returns the byte the host last wrote there, at every address of BATCH, KEY and PLANE. -/
def Obligations.ReadAfterWriteReturnsTheByte : Prop :=
  ∀ (a : PortAddr) (v : Byte) (s : State),
    a.toNat < 0x10A ∨ (0x200 ≤ a.toNat ∧ a.toNat < 0x300) →
    ∃ t, exec (.wr a v) s = .next t ∧ exec (.rd a) t = .next { t with observed := t.observed ++ [v] }

/-- R62: each command mnemonic is the write of its byte to CMD, and these are the words. -/
def Obligations.CommandMnemonicIsItsWriteToCmd : Prop :=
  ∀ c : Command, wordValue (encode (.wr 0x110#10 c.byte)) = 0x51000 + c.byte.toNat ∧
    ∀ s : State, exec (.wr 0x110#10 c.byte) s = exec c.instr s

/-! ### Commands and errors -/

/-- R56, R57: a reserved or illegal command byte, written to CMD in any state, stays in CMD and is recorded; nothing else
changes, and the reserved bits are checked first. -/
def Obligations.RejectedCommandBytesAreRecorded : Prop :=
  ∀ (v : Byte) (s : State),
    (0x10 ≤ v.toNat → exec (.wr 0x110#10 v) s = .next { s with cmd := v, status := 0x0A#8 }) ∧
    (0x09 ≤ v.toNat ∧ v.toNat ≤ 0x0F → exec (.wr 0x110#10 v) s = .next { s with cmd := v, status := 0x06#8 })

/-- R101: KSADV and ROUND raise ROUND_RANGE exactly for 0 and 32..63; no other command raises it (0x0E is its STATUS, R103), and
no other reads `ROUND`. That the first clause holds whatever is written or not is DEDUCED from R102's order
(notes/assumptions/15.md; P4 of 95_test_vectors.md has it so for both). -/
def Obligations.RoundRangeIsRaisedByKsadvAndRoundOnly : Prop :=
  (∀ s : State, s.round.toNat = 0 ∨ 32 ≤ s.round.toNat →
    exec .ksadv s = .next { s with cmd := 0x03#8, status := 0x0E#8 } ∧
    exec .round s = .next { s with cmd := 0x07#8, status := 0x0E#8 }) ∧
  (∀ (s t : State), 1 ≤ s.round.toNat ∧ s.round.toNat ≤ 31 →
    (exec .ksadv s = .next t → t.status = 0x01#8) ∧ (exec .round s = .next t → t.status = 0x01#8)) ∧
  (∀ (c : Command) (s t : State), c ≠ .ksadv → c ≠ .round → exec c.instr s = .next t → t.status ≠ 0x0E#8) ∧
  ∀ (c : Command) (s : State) (r : Round), c ≠ .ksadv → c ≠ .round →
    sameButRound (exec c.instr s) (exec c.instr { s with round := r })

/-- R28: a command in range that would read an unwritten byte does not run: the fault names it. NOP reads nothing. -/
def Obligations.CommandReadingUnwrittenByteFaults : Prop :=
  (∀ (c : Command) (s : State), s.roundInRange c = true → s.operandsWritten c = false →
    exec c.instr s = .fault (.uninitReadBy c)) ∧
  ∀ s : State, s.operandsWritten .nop = true

/-- R119: what each command needs written, byte by byte: all of BATCH, all of PLANE, all of KEY, or `KEY[2..9]`. -/
def Obligations.WrittenOperandsAreWrittenByteByByte : Prop :=
  ∀ s : State,
    (s.operandsWritten .encode = true ↔ ∀ a, (s.readBatch a).isSome = true) ∧
    (s.operandsWritten .decode = true ↔ ∀ p b, (s.readPlane p b).isSome = true) ∧
    (s.operandsWritten .sbox = true ↔ ∀ p b, (s.readPlane p b).isSome = true) ∧
    (s.operandsWritten .player = true ↔ ∀ p b, (s.readPlane p b).isSome = true) ∧
    (s.operandsWritten .keymix = true ↔
      (∀ p b, (s.readPlane p b).isSome = true) ∧ ∀ j : Fin 10, 2 ≤ j.val → (s.readKey j).isSome = true) ∧
    (s.operandsWritten .ksadv = true ↔ ∀ j, (s.readKey j).isSome = true) ∧
    (s.operandsWritten .round = true ↔
      (∀ p b, (s.readPlane p b).isSome = true) ∧ ∀ j, (s.readKey j).isSome = true) ∧
    (s.operandsWritten .encrypt = true ↔
      (∀ a, (s.readBatch a).isSome = true) ∧ ∀ j, (s.readKey j).isSome = true)

/-- R28: no instruction clears a written mark. -/
def Obligations.NoInstructionClearsAWrittenMark : Prop :=
  ∀ (i : Instr) (s t : State), exec i s = .next t → ∀ a, (s.peek a).isSome = true → (t.peek a).isSome = true

/-- R99: a command either completes in full, with its whole effect and STATUS = 0x01, or it errs, and has changed nothing but
CMD and STATUS. The whole effect is the one the meanings have: what it does to TMP and to the sequencer is the model's
(notes/assumptions/8.md, 9.md, 18.md and 19.md). -/
def Obligations.ErrorsArePrecise : Prop :=
  ∀ (v : Byte) (s t : State), exec (.wr 0x110#10 v) s = .next t →
    (statusErr t.status = true → t = { s with cmd := v, status := t.status }) ∧
    (statusErr t.status = false → ∃ c : Command, v = c.byte ∧ s.roundInRange c = true ∧ s.operandsWritten c = true ∧
      t.status = 0x01#8 ∧ t = (commandEffect c (s.startCommand v)).complete)

/-- R23, R102, R103: a command byte written to CMD stays there, and STATUS is one of four values after it. -/
def Obligations.CommandWriteLeavesItsByteAndOneOfFourStatuses : Prop :=
  ∀ (v : Byte) (s t : State), exec (.wr 0x110#10 v) s = .next t →
    t.cmd = v ∧ (t.status = 0x01#8 ∨ t.status = 0x06#8 ∨ t.status = 0x0A#8 ∨ t.status = 0x0E#8)

/-- R92: NOP does nothing but report completion, in every state. -/
def Obligations.NopOnlyReportsCompletion : Prop :=
  decode [0x00#8] = .ok .nop ∧ ∀ s : State, exec .nop s = .next { s with cmd := 0x00#8, status := 0x01#8 }

/-! ### The transpose -/

/-- R13: bit `i` of block `k` is bit `i % 8` of byte `i / 8` of that block. What a byte of BATCH that is not written shows here is
a free value (notes/assumptions/20.md), and the statement holds for every value of it. -/
def Obligations.BlockBitsAreBatchBits : Prop :=
  ∀ (s : State) (k : Fin 32) (i : Fin 64),
    (s.blk k).getLsbD i.val = (s.batchByte (8 * k.val + i.val / 8)).getLsbD (i.val % 8)

/-- R65: ENCODE, its result bit by bit, its flags, what it leaves alone, and its fault. That TMP is as before is the model's
(DESIGN CHOICE, notes/assumptions/8.md; the spec allows TMP any value, 93 I7). -/
def Obligations.EncodePlacesEveryBit : Prop :=
  decode [0x01#8] = .ok .encode ∧
  (∀ s : State, s.batchWritten = true → ∃ t, exec .encode s = .next t ∧
    (∀ (i : Fin 64) (k : Fin 32), ∃ v, s.readBatch ⟨8 * k.val + i.val / 8, by omega⟩ = some v ∧
      t.plane[i].getLsbD k.val = v.getLsbD (i.val % 8)) ∧
    t.planeWritten = true ∧ completed .encode t ∧
    sameBatch s t ∧ sameKey s t ∧ t.round = s.round ∧ sameHidden s t ∧ samePort s t) ∧
  ∀ s : State, s.batchWritten = false → exec .encode s = .fault (.uninitReadBy .encode)

/-- R66: DECODE, in the same way. That TMP is as before is the model's (DESIGN CHOICE, notes/assumptions/8.md; the spec allows
TMP any value, 93 I7). -/
def Obligations.DecodePlacesEveryBit : Prop :=
  decode [0x02#8] = .ok .decode ∧
  (∀ s : State, s.planeWritten = true → ∃ t, exec .decode s = .next t ∧
    (∀ (i : Fin 64) (k : Fin 32), ∃ v, t.readBatch ⟨8 * k.val + i.val / 8, by omega⟩ = some v ∧
      v.getLsbD (i.val % 8) = s.plane[i].getLsbD k.val) ∧
    completed .decode t ∧
    samePlanes s t ∧ sameKey s t ∧ t.round = s.round ∧ sameHidden s t ∧ samePort s t) ∧
  ∀ s : State, s.planeWritten = false → exec .decode s = .fault (.uninitReadBy .decode)

/-- R67: ENCODE then DECODE leaves BATCH as it was, and DECODE then ENCODE leaves PLANE as it was. -/
def Obligations.EncodeAndDecodeAreInverse : Prop :=
  (∀ s : State, s.batchWritten = true → ∃ t u, exec .encode s = .next t ∧ exec .decode t = .next u ∧ sameBatch s u) ∧
  ∀ s : State, s.planeWritten = true → ∃ t u, exec .decode s = .next t ∧ exec .encode t = .next u ∧ samePlanes s u

/-- R70: after ENCODE, lane `k` of the planes is block `k`. -/
def Obligations.LaneIsBlockAfterEncode : Prop :=
  ∀ s : State, s.batchWritten = true → ∃ t, exec .encode s = .next t ∧ ∀ k, lane t.plane k = s.blk k

/-! ### The key schedule -/

/-- R19, R20: bit `8j + t` of `KEY80` is bit `t` of `KEY[j]`, and `RK[i] = KEY80[16+i] = KEY[i/8 + 2][i % 8]`. -/
def Obligations.RoundKeyBitsAreKeyBits : Prop :=
  (∀ (k : Key) (j : Fin 10) (t : Fin 8), (byteAt k j.val).getLsbD t.val = k.getLsbD (8 * j.val + t.val)) ∧
  ∀ (k : Key) (i : Fin 64), (roundKey k).getLsbD i.val = k.getLsbD (16 + i.val) ∧
    (roundKey k).getLsbD i.val = (byteAt k (i.val / 8 + 2)).getLsbD (i.val % 8)

/-- R71: the table of the S-box, and that it is a bijection on 0..15. -/
def Obligations.SboxIsTheTableAndABijection : Prop :=
  (List.range 16).map (fun n => (sbox (BitVec.ofNat 4 n)).toNat) =
    [0xC, 0x5, 0x6, 0xB, 0x9, 0x0, 0xA, 0xD, 0x3, 0xE, 0xF, 0x8, 0x4, 0x7, 0x1, 0x2] ∧
  Function.Bijective sbox

/-- R72: every bit of `KS(K, r)`: the bit of `K` that the rotation brings there, the top four replaced by the S-box of them,
and the counter's five bits in 15..19. -/
def Obligations.KeyScheduleBitByBit : Prop :=
  ∀ (k : Key) (r : Round), 1 ≤ r.toNat → r.toNat ≤ 31 → ∀ j, j < 80 →
    (keySchedule k r).getLsbD j =
      if 76 ≤ j then (sbox (k.extractLsb' 15 4)).getLsbD (j - 76)
      else if 15 ≤ j ∧ j ≤ 19 then (k.getLsbD ((j + 19) % 80) ^^ r.getLsbD (j - 15))
      else k.getLsbD ((j + 19) % 80)

/-- R74: the byte-level form agrees with R72 for every key and every round number in 1..31. -/
def Obligations.KeyScheduleByteFormAgrees : Prop :=
  ∀ (k : Key) (r : Round), 1 ≤ r.toNat → r.toNat ≤ 31 → ∀ j : Fin 10,
    byteAt (keySchedule k r) j.val = keyScheduleByte k r j.val

/-- R73: KSADV. That ROUND_RANGE comes before UNINIT_READ, where both hold, is DEDUCED from R102's order
(notes/assumptions/15.md; P4 of 95_test_vectors.md has it so). That TMP is as before is the model's (DESIGN CHOICE,
notes/assumptions/8.md; the spec allows TMP any value, 93 I7). -/
def Obligations.KsadvAdvancesTheKey : Prop :=
  decode [0x03#8] = .ok .ksadv ∧
  (∀ s : State, 1 ≤ s.round.toNat → s.round.toNat ≤ 31 → s.keyWritten = true →
    ∃ t, exec .ksadv s = .next t ∧ t.key = keySchedule s.key s.round ∧ t.keyWritten = true ∧ completed .ksadv t ∧
      sameBatch s t ∧ samePlanes s t ∧ t.round = s.round ∧ sameHidden s t ∧ samePort s t) ∧
  (∀ s : State, s.round.toNat = 0 ∨ 32 ≤ s.round.toNat →
    exec .ksadv s = .next { s with cmd := 0x03#8, status := 0x0E#8 }) ∧
  ∀ s : State, 1 ≤ s.round.toNat → s.round.toNat ≤ 31 → s.keyWritten = false →
    exec .ksadv s = .fault (.uninitReadBy .ksadv)

/-- R78: no data-path command (nor NOP, nor a read) writes KEY; KSADV neither reads nor writes a bit of PLANE or BATCH; and NOP,
ENCODE, DECODE, SBOX and PLAYER do the same whatever KEY and its marks hold. So KEYMIX alone, and ROUND and ENCRYPT that
perform it, bring the key to the data. -/
def Obligations.KeyAndDataPathMeetOnlyInKeyMixing : Prop :=
  (∀ (s t : State) (i : Instr), (i ∈ [Instr.nop, .encode, .decode, .keymix, .sbox, .player] ∨ ∃ a, i = .rd a) →
    exec i s = .next t → sameKey s t) ∧
  (∀ (s t : State), exec .ksadv s = .next t → sameBatch s t ∧ samePlanes s t) ∧
  (∀ (s t : State) (m : Memory) (p : Planes) (w : Vector Bool 256), exec .ksadv s = .next t →
    exec .ksadv { s with batch := m, plane := p, planeMark := w } =
      .next { t with batch := m, plane := p, planeMark := w }) ∧
  ∀ (s t : State) (i : Instr) (k : Key) (w : Vector Bool 10), i ∈ [Instr.nop, .encode, .decode, .sbox, .player] →
    exec i s = .next t → exec i { s with key := k, keyMark := w } = .next { t with key := k, keyMark := w }

/-! ### The round engine -/

/-- R79: KEYMIX. That TMP is as before is the model's (DESIGN CHOICE, notes/assumptions/8.md; the spec allows TMP any value,
93 I7). -/
def Obligations.KeymixXorsTheReplicatedKeyBits : Prop :=
  decode [0x04#8] = .ok .keymix ∧
  (∀ s : State, s.planeWritten = true → s.roundKeyWritten = true → ∃ t, exec .keymix s = .next t ∧
    (∀ i : Fin 64, t.plane[i] = s.plane[i] ^^^ rep32 ((byteAt s.key (i.val / 8 + 2)).getLsbD (i.val % 8))) ∧
    t.planeWritten = true ∧ completed .keymix t ∧
    sameBatch s t ∧ sameKey s t ∧ t.round = s.round ∧ sameHidden s t ∧ samePort s t) ∧
  ∀ s : State, s.planeWritten = false ∨ s.roundKeyWritten = false → exec .keymix s = .fault (.uninitReadBy .keymix)

/-- R79: KEYMIX twice in a row restores PLANE. -/
def Obligations.KeymixTwiceRestoresThePlanes : Prop :=
  ∀ s : State, s.planeWritten = true → s.roundKeyWritten = true →
    ∃ t u, exec .keymix s = .next t ∧ exec .keymix t = .next u ∧ samePlanes s u

/-- R80: the complement under a key bit, read as a condition, is the same function. -/
def Obligations.KeymixIsTheConditionalComplement : Prop :=
  ∀ s : State, s.planeWritten = true → s.roundKeyWritten = true → ∃ t, exec .keymix s = .next t ∧
    ∀ i : Fin 64, t.plane[i] =
      if (byteAt s.key (i.val / 8 + 2)).getLsbD (i.val % 8) then ~~~s.plane[i] else s.plane[i]

/-- R81: SBOX. That TMP is as before is the model's (DESIGN CHOICE, notes/assumptions/8.md; the spec allows TMP any value,
93 I7). -/
def Obligations.SboxSubstitutesEveryNibble : Prop :=
  decode [0x05#8] = .ok .sbox ∧
  (∀ s : State, s.planeWritten = true → ∃ t, exec .sbox s = .next t ∧
    (∀ (g : Fin 16) (k : Fin 32), nibble t.plane g k.val = sbox (nibble s.plane g k.val)) ∧
    t.planeWritten = true ∧ completed .sbox t ∧
    sameBatch s t ∧ sameKey s t ∧ t.round = s.round ∧ sameHidden s t ∧ samePort s t) ∧
  ∀ s : State, s.planeWritten = false → exec .sbox s = .fault (.uninitReadBy .sbox)

/-- R82: the substitution layer is these four polynomials on whole planes. -/
def Obligations.SboxPlanesAreTheAlgebraicNormalForm : Prop :=
  ∀ s : State, s.planeWritten = true → ∃ t, exec .sbox s = .next t ∧ ∀ g : Fin 16,
    let x0 : Plane := s.plane[4 * g.val]
    let x1 : Plane := s.plane[4 * g.val + 1]
    let x2 : Plane := s.plane[4 * g.val + 2]
    let x3 : Plane := s.plane[4 * g.val + 3]
    t.plane[4 * g.val] = x0 ^^^ x2 ^^^ (x1 &&& x2) ^^^ x3 ∧
    t.plane[4 * g.val + 1] =
      x1 ^^^ x3 ^^^ (x1 &&& x3) ^^^ (x2 &&& x3) ^^^ (x0 &&& x1 &&& x2) ^^^ (x0 &&& x1 &&& x3) ^^^ (x0 &&& x2 &&& x3) ∧
    t.plane[4 * g.val + 2] =
      0xFFFFFFFF#32 ^^^ x2 ^^^ x3 ^^^ (x0 &&& x1) ^^^ (x0 &&& x3) ^^^ (x1 &&& x3) ^^^ (x0 &&& x1 &&& x3)
        ^^^ (x0 &&& x2 &&& x3) ∧
    t.plane[4 * g.val + 3] =
      0xFFFFFFFF#32 ^^^ x0 ^^^ x1 ^^^ x3 ^^^ (x1 &&& x2) ^^^ (x0 &&& x1 &&& x2) ^^^ (x0 &&& x1 &&& x3)
        ^^^ (x0 &&& x2 &&& x3)

/-- R83: the netlist of the spec, on whole planes, computes the substitution layer. -/
def Obligations.SboxPlanesAreTheNetlist : Prop :=
  ∀ s : State, s.planeWritten = true → ∃ t, exec .sbox s = .next t ∧ ∀ g : Fin 16,
    let x0 : Plane := s.plane[4 * g.val]
    let x1 : Plane := s.plane[4 * g.val + 1]
    let x2 : Plane := s.plane[4 * g.val + 2]
    let x3 : Plane := s.plane[4 * g.val + 3]
    t.plane[4 * g.val] = x0 ^^^ x3 ^^^ (x2 &&& ~~~x1) ∧
    t.plane[4 * g.val + 1] = x1 ^^^ x3 ^^^ (x3 &&& (x1 ^^^ x2) &&& ~~~x0) ^^^ (x0 &&& x1 &&& x2) ∧
    t.plane[4 * g.val + 2] = ~~~(x2 ^^^ (x0 &&& x1) ^^^ (x3 &&& ((~~~x0 &&& ~~~x1) ^^^ (x0 &&& x2)))) ∧
    t.plane[4 * g.val + 3] = ~~~(x0 ^^^ x1 ^^^ x3 ^^^ (~~~x0 &&& x1 &&& x2) ^^^ (x0 &&& x3 &&& (x1 ^^^ x2)))

/-- R84: PLAYER. That TMP holds the same planes afterwards is the model's, from R84's realisation (DEDUCED,
notes/assumptions/18.md; the spec allows TMP any value, 93 I7), and so is all that is said of TMP here. -/
def Obligations.PlayerMovesEveryPlane : Prop :=
  decode [0x06#8] = .ok .player ∧
  (∀ s : State, s.planeWritten = true → ∃ t, exec .player s = .next t ∧
    (∀ i : Fin 64, t.plane[i.val / 4 + i.val % 4 * 16] = s.plane[i]) ∧ t.tmp = t.plane ∧
    t.planeWritten = true ∧ completed .player t ∧
    sameBatch s t ∧ sameKey s t ∧ t.round = s.round ∧ t.phase = s.phase ∧ samePort s t) ∧
  ∀ s : State, s.planeWritten = false → exec .player s = .fault (.uninitReadBy .player)

/-- R85: `P` is a bijection with the inverse the rule gives, equals the reference cipher's permutation, and is the identity
when applied three times; and so PLAYER three times restores PLANE. -/
def Obligations.PermutationHasOrderThreeAndIsTheReferencePermutation : Prop :=
  (Function.Bijective permutedIndex) ∧
  (∀ j : Fin 64, ∃ i : Fin 64, i.val = 4 * (j.val % 16) + j.val / 16 ∧ permutedIndex i = j) ∧
  (∀ i : Fin 64, (permutedIndex i).val = referenceIndex i.val) ∧
  (∀ i : Fin 64, permutedIndex (permutedIndex (permutedIndex i)) = i) ∧
  ∀ s : State, s.planeWritten = true → ∃ t u v, exec .player s = .next t ∧ exec .player t = .next u ∧
    exec .player u = .next v ∧ samePlanes s v

/-- R70: KEYMIX, SBOX and PLAYER work lane by lane, each as the step of the reference cipher on the lane's block. -/
def Obligations.RoundEngineWorksLaneByLane : Prop :=
  ∀ s : State, s.planeWritten = true →
    (s.roundKeyWritten = true →
      ∃ t, exec .keymix s = .next t ∧ ∀ k, lane t.plane k = lane s.plane k ^^^ s.key.extractLsb' 16 64) ∧
    (∃ t, exec .sbox s = .next t ∧ ∀ k, lane t.plane k = sBoxLayer (lane s.plane k)) ∧
    (∃ t, exec .player s = .next t ∧ ∀ k, lane t.plane k = pLayer (lane s.plane k))

/-- R87, R88: ROUND with round number `r` maps every lane by one round of the reference cipher under the key before the
advance, advances the key, and counts; out of range it records ROUND_RANGE and changes nothing else. That the range comes
before the marks is DEDUCED (notes/assumptions/15.md), and that TMP then equals PLANE is the model's
(notes/assumptions/18.md). -/
def Obligations.RoundIsOneReferenceRoundInEveryLane : Prop :=
  decode [0x07#8] = .ok .round ∧
  (∀ s : State, 1 ≤ s.round.toNat → s.round.toNat ≤ 31 → s.planeWritten = true → s.keyWritten = true →
    ∃ t, exec .round s = .next t ∧
      (∀ k, lane t.plane k = pLayer (sBoxLayer (lane s.plane k ^^^ s.key.extractLsb' 16 64))) ∧
      t.key = keySchedule s.key s.round ∧ t.round.toNat = s.round.toNat + 1 ∧
      t.planeWritten = true ∧ t.keyWritten = true ∧ completed .round t ∧
      t.tmp = t.plane ∧ sameBatch s t ∧ t.phase = s.phase ∧ samePort s t) ∧
  (∀ s : State, s.round.toNat = 0 ∨ 32 ≤ s.round.toNat →
    exec .round s = .next { s with cmd := 0x07#8, status := 0x0E#8 }) ∧
  ∀ s : State, 1 ≤ s.round.toNat → s.round.toNat ≤ 31 → (s.planeWritten = false ∨ s.keyWritten = false) →
    exec .round s = .fault (.uninitReadBy .round)

/-- R87: ROUND is KEYMIX, SBOX, PLAYER and KSADV one after another and then `SETROUND r+1`, but for the byte left in CMD. That
they agree in TMP too is the model's (notes/assumptions/18.md). -/
def Obligations.RoundIsItsFourSubStepsAndTheCounter : Prop :=
  ∀ s : State, 1 ≤ s.round.toNat → s.round.toNat ≤ 31 → s.planeWritten = true → s.keyWritten = true →
    ∃ t u, exec .round s = .next t ∧
      execAll ([.keymix, .sbox, .player, .ksadv] ++ setRound (s.round.setWidth 8 + 1#8)) s = .next u ∧
      { u with cmd := 0x07#8 } = t

/-! ### The driver -/

/-- R91: ENCRYPT, run by its sequencer, is the pseudocode of the rule. That ENCRYPT is 127 phases of the sequencer of R27 in one
step is DEDUCED (notes/assumptions/19.md), that the sequencer is idle afterwards likewise (notes/assumptions/9.md), and that
the two agree in TMP is the model's (notes/assumptions/18.md). -/
def Obligations.EncryptIsItsPseudocode : Prop :=
  decode [0x08#8] = .ok .encrypt ∧
  (∀ s : State, s.batchWritten = true → s.keyWritten = true →
    exec .encrypt s = .next { encryptPseudocode s with cmd := 0x08#8, status := 0x01#8, phase := .idle }) ∧
  ∀ s : State, s.batchWritten = false ∨ s.keyWritten = false → exec .encrypt s = .fault (.uninitReadBy .encrypt)

/-- R94: in every lane ENCRYPT computes the reference cipher, for every batch and every key. -/
def Obligations.EncryptMeetsTheReferenceCipher : Prop :=
  ∀ s : State, s.batchWritten = true → s.keyWritten = true →
    ∃ t, exec .encrypt s = .next t ∧ ∀ k : Fin 32, t.blk k = encryptRef (s.blk k) s.key

/-- R96: the whole end state of ENCRYPT, with what it leaves alone; TMP is left open. That the sequencer is idle is DEDUCED
(notes/assumptions/9.md and 19.md). -/
def Obligations.EncryptEndState : Prop :=
  ∀ s : State, s.batchWritten = true → s.keyWritten = true → ∃ t, exec .encrypt s = .next t ∧
    (∀ k : Fin 32, t.blk k = encryptRef (s.blk k) s.key) ∧
    (∀ (i : Fin 64) (k : Fin 32), t.plane[i].getLsbD k.val = (t.blk k).getLsbD i.val) ∧
    t.key = keySequence s.key 31 ∧ t.round = 32#6 ∧ t.status = 0x01#8 ∧ t.cmd = 0x08#8 ∧
    t.batchWritten = true ∧ t.planeWritten = true ∧ t.keyWritten = true ∧ t.phase = .idle ∧ samePort s t

/-- R91, R95: ENCRYPT depends neither on PLANE and its marks nor on ROUND, nor on what TMP held (R26). -/
def Obligations.EncryptIgnoresPlanesRoundAndTmp : Prop :=
  ∀ (s : State) (p x : Planes) (w : Vector Bool 256) (r : Round),
    outcomesAlike (exec .encrypt s) (exec .encrypt { s with plane := p, planeMark := w, round := r, tmp := x })

/-- R123, R97: ENCODE, `SETROUND 1`, 31 times ROUND, KEYMIX and DECODE are ENCRYPT, but for the byte left in CMD. That the
sequencer is idle between commands is the invariant of EveryStepKeepsTheInvariant (DEDUCED, notes/assumptions/9.md), and
that the two agree in TMP is the model's (notes/assumptions/18.md). -/
def Obligations.SteppedEncryptionIsEncrypt : Prop :=
  ∀ s : State, s.batchWritten = true → s.keyWritten = true → s.phase = .idle →
    ∃ t u, exec .encrypt s = .next t ∧
      execAll ([.encode] ++ setRound 1#8 ++ repeatBody 31 [.round] ++ [.keymix, .decode]) s = .next u ∧
      { u with cmd := 0x08#8 } = t

/-! ### The macros -/

/-- R38, R63: SETKEY leaves the key it names, written whole, and changes nothing else. -/
def Obligations.SetKeyLoadsTheKey : Prop :=
  ∀ (k : Key) (s : State), ∃ t, execAll (setKeyMacro k) s = .next t ∧ t.key = k ∧ t.keyWritten = true ∧
    { s with key := t.key, keyMark := t.keyMark } = t

/-- R37, R63: LOADBLK leaves the block it names in its lane and changes no other byte. -/
def Obligations.LoadBlkLoadsTheBlock : Prop :=
  ∀ (k : Fin 32) (v : Block) (s : State), ∃ t, execAll (loadBlk k v) s = .next t ∧ t.blk k = v ∧
    (∀ j : Fin 8, t.readBatch ⟨8 * k.val + j.val, by omega⟩ = some (byteAt v j.val)) ∧
    (∀ a : Fin 256, a.val / 8 ≠ k.val → t.readBatch a = s.readBatch a) ∧ { s with batch := t.batch } = t

/-- R118, R94: when the host has written a key and 32 blocks, in any state, ENCRYPT completes with their encryptions. -/
def Obligations.LoadedBatchIsEncrypted : Prop :=
  ∀ (k : Key) (v : Fin 32 → Block) (s : State), ∃ t,
    execAll (setKeyMacro k ++ (List.finRange 32).flatMap (fun n => loadBlk n (v n)) ++ [.encrypt]) s = .next t ∧
      ∀ n : Fin 32, t.blk n = encryptRef (v n) k

/-! ### The whole machine -/

/-- The invariant holds at reset. The form of BATCH is the model's (DESIGN CHOICE, notes/assumptions/6.md); that the sequencer is
idle there is DEDUCED (notes/assumptions/9.md). -/
def Obligations.ResetMeetsTheInvariant : Prop := State.reset.inv = true

/-- Every step keeps the invariant: BATCH canonical within 0x000..0x0FF, STATUS a value of R24 and R100 (no reserved bit, no
code 5..7), the sequencer idle between commands. That BATCH is a list of cells whose addresses strictly rise is the model's
form (DESIGN CHOICE, notes/assumptions/6.md); that the sequencer is idle between commands is DEDUCED from R115 and R10
(notes/assumptions/9.md). -/
def Obligations.EveryStepKeepsTheInvariant : Prop :=
  ∀ s t : State, s.inv = true → step s = .next t → t.inv = true

/-- R28, R30, R26: nothing the machine does, and nothing the host reads, depends on the value of a byte that has no written
mark, or on what TMP held; so the values the model puts there at reset (notes/assumptions/5.md, 8.md) decide nothing. -/
def Obligations.UnwrittenValuesNeverMatter : Prop :=
  ∀ s t : State, Alike s t → outcomesAlike (step s) (step t)

/-- R128: every command takes a positive number of cycles, `LAT_<op>` or, when it fails, `LAT_ERR` (KSADV and ROUND fail with
ROUND out of 1..31, R101); no data and no key has a part in it. That a failed command takes `LAT_ERR`, whichever it is, is how
notes/assumptions/11.md reads the rule. -/
def Obligations.LatencyIsPositiveAndIndependentOfDataAndKey : Prop :=
  (∀ (v : Byte) (s : State), 0 < commandCycles v s) ∧
  (∀ (c : Command) (s : State), c ≠ .ksadv → c ≠ .round → commandCycles c.byte s = latency c) ∧
  (∀ (c : Command) (s : State), c = .ksadv ∨ c = .round →
    (1 ≤ s.round.toNat ∧ s.round.toNat ≤ 31 → commandCycles c.byte s = latency c) ∧
    (s.round.toNat = 0 ∨ 32 ≤ s.round.toNat → commandCycles c.byte s = errorLatency)) ∧
  (∀ (v : Byte) (s : State), 0x09 ≤ v.toNat → commandCycles v s = errorLatency) ∧
  ∀ (v : Byte) (s t : State), s.round = t.round → commandCycles v s = commandCycles v t
end

