-- ==== Sys2Proof/Laws/Bits.lean ====
section
/-! SUPPORT. One lemma for each piece of bit notation: the bits of a word built from its bits, the entries of a table, the
bits of a replication, a rotation, and of a word with one byte replaced. -/

namespace Sys2Proof.Machine

theorem ofBits_getLsbD {n : Nat} (f : Fin n → Bool) (i : Nat) (h : i < n) : (ofBits n f).getLsbD i = f ⟨i, h⟩ := by
  induction n with
  | zero => omega
  | succ n ih =>
    rw [ofBits, BitVec.getLsbD_cons]
    split
    · next hi => subst hi; rfl
    · next hi => rw [ih _ (by omega)]; rfl

@[simp] theorem ofBits_getElem {n : Nat} (f : Fin n → Bool) (i : Nat) (h : i < n) : (ofBits n f)[i] = f ⟨i, h⟩ := by
  rw [← BitVec.getLsbD_eq_getElem, ofBits_getLsbD]

/-- Two words with the same bits are one word. -/
theorem ofBits_getLsbD_self {n : Nat} (x : BitVec n) : (ofBits n fun i => x.getLsbD i.val) = x := by
  apply BitVec.eq_of_getLsbD_eq
  intro i hi
  rw [ofBits_getLsbD _ _ hi]

@[simp] theorem tabulate_getElem {α : Type} {n : Nat} (f : Fin n → α) (i : Nat) (h : i < n) :
    (tabulate n f)[i] = f ⟨i, h⟩ := by
  simp [tabulate]

@[simp] theorem rep32_getLsbD (b : Bool) (k : Nat) (h : k < 32) : (rep32 b).getLsbD k = b := by
  cases b
  · simp [rep32]
  · have : (0xFFFFFFFF#32) = BitVec.allOnes 32 := by decide
    rw [rep32, if_pos rfl, this, BitVec.getLsbD_allOnes, decide_eq_true h]

/-- R8: bit `j` of `rotr80(v, n)` is `v[(j + n) % 80]`. -/
theorem rotr80_getLsbD (v : Key) (n j : Nat) (hj : j < 80) (hn : n < 80) :
    (rotr80 v n).getLsbD j = v.getLsbD ((j + n) % 80) := by
  simp only [rotr80, BitVec.getLsbD_rotateRight, Nat.mod_eq_of_lt hn]
  by_cases h : j < 80 - n
  · rw [decide_eq_true h, cond_true, Nat.mod_eq_of_lt (by omega : j + n < 80), Nat.add_comm]
  · have : (j + n) % 80 = j - (80 - n) := by omega
    simp [h, hj, this]

theorem byteAt_getLsbD {n : Nat} (x : BitVec n) (b t : Nat) (h : t < 8) :
    (byteAt x b).getLsbD t = x.getLsbD (8 * b + t) := by
  simp [byteAt, h]

/-- A word with one byte replaced: that byte's bits are the new byte's, every other bit is as before (R34, R41). -/
theorem withByteAt_getLsbD {n : Nat} (x : BitVec n) (b : Nat) (v : Byte) (i : Nat) (h : i < n) :
    (withByteAt x b v).getLsbD i = if 8 * b ≤ i ∧ i < 8 * b + 8 then v.getLsbD (i - 8 * b) else x.getLsbD i := by
  have hff : (0xFF#8) = BitVec.allOnes 8 := by decide
  simp only [withByteAt, hff, BitVec.getLsbD_or, BitVec.getLsbD_and, BitVec.getLsbD_not, BitVec.getLsbD_shiftLeft,
    BitVec.getLsbD_setWidth, BitVec.getLsbD_allOnes, h]
  by_cases h1 : i < 8 * b
  · have h3 : ¬ (8 * b ≤ i) := by omega
    simp [h1, h3]
  · by_cases h2 : i - 8 * b < 8
    · have h3 : 8 * b ≤ i ∧ i < 8 * b + 8 := by omega
      have h4 : i - 8 * b < n := by omega
      simp [h1, h2, h3, h4]
    · have h3 : ¬ (8 * b ≤ i ∧ i < 8 * b + 8) := by omega
      have h4 : v.getLsbD (i - 8 * b) = false := BitVec.getLsbD_of_ge v _ (by omega)
      simp [h1, h2, h3, h4]

theorem byteAt_withByteAt_same {n : Nat} (x : BitVec n) (b : Nat) (v : Byte) (h : 8 * b + 8 ≤ n) :
    byteAt (withByteAt x b v) b = v := by
  apply BitVec.eq_of_getLsbD_eq
  intro t ht
  rw [byteAt_getLsbD _ _ _ ht, withByteAt_getLsbD _ _ _ _ (by omega), if_pos (by omega)]
  congr 1
  omega

theorem byteAt_withByteAt_other {n : Nat} (x : BitVec n) (b c : Nat) (v : Byte) (hc : 8 * c + 8 ≤ n) (h : c ≠ b) :
    byteAt (withByteAt x b v) c = byteAt x c := by
  apply BitVec.eq_of_getLsbD_eq
  intro t ht
  rw [byteAt_getLsbD _ _ _ ht, byteAt_getLsbD _ _ _ ht, withByteAt_getLsbD _ _ _ _ (by omega), if_neg (by omega)]

end Sys2Proof.Machine
end

