-- ==== Sys2Proof/Laws/State.lean ====
section
/-! SUPPORT. Each update of the state, field by field: what it writes and what it leaves. A proof uses these and does not
unfold a record update. -/

namespace Sys2Proof.Machine

@[simp] theorem State.writeBatch_batch (s : State) (a : Fin 256) (v : Byte) : (s.writeBatch a v).batch = s.batch.write a.val v := rfl
@[simp] theorem State.writeBatch_plane (s : State) (a : Fin 256) (v : Byte) : (s.writeBatch a v).plane = s.plane := rfl
@[simp] theorem State.writeBatch_planeMark (s : State) (a : Fin 256) (v : Byte) : (s.writeBatch a v).planeMark = s.planeMark := rfl
@[simp] theorem State.writeBatch_key (s : State) (a : Fin 256) (v : Byte) : (s.writeBatch a v).key = s.key := rfl
@[simp] theorem State.writeBatch_keyMark (s : State) (a : Fin 256) (v : Byte) : (s.writeBatch a v).keyMark = s.keyMark := rfl
@[simp] theorem State.writeBatch_round (s : State) (a : Fin 256) (v : Byte) : (s.writeBatch a v).round = s.round := rfl
@[simp] theorem State.writeBatch_cmd (s : State) (a : Fin 256) (v : Byte) : (s.writeBatch a v).cmd = s.cmd := rfl
@[simp] theorem State.writeBatch_status (s : State) (a : Fin 256) (v : Byte) : (s.writeBatch a v).status = s.status := rfl
@[simp] theorem State.writeBatch_tmp (s : State) (a : Fin 256) (v : Byte) : (s.writeBatch a v).tmp = s.tmp := rfl
@[simp] theorem State.writeBatch_phase (s : State) (a : Fin 256) (v : Byte) : (s.writeBatch a v).phase = s.phase := rfl
@[simp] theorem State.writeBatch_inputs (s : State) (a : Fin 256) (v : Byte) : (s.writeBatch a v).inputs = s.inputs := rfl
@[simp] theorem State.writeBatch_observed (s : State) (a : Fin 256) (v : Byte) : (s.writeBatch a v).observed = s.observed := rfl

@[simp] theorem State.writeKey_batch (s : State) (j : Fin 10) (v : Byte) : (s.writeKey j v).batch = s.batch := rfl
@[simp] theorem State.writeKey_plane (s : State) (j : Fin 10) (v : Byte) : (s.writeKey j v).plane = s.plane := rfl
@[simp] theorem State.writeKey_planeMark (s : State) (j : Fin 10) (v : Byte) : (s.writeKey j v).planeMark = s.planeMark := rfl
@[simp] theorem State.writeKey_key (s : State) (j : Fin 10) (v : Byte) : (s.writeKey j v).key = withByteAt s.key j.val v := rfl
@[simp] theorem State.writeKey_keyMark (s : State) (j : Fin 10) (v : Byte) : (s.writeKey j v).keyMark = s.keyMark.set j.val true := rfl
@[simp] theorem State.writeKey_round (s : State) (j : Fin 10) (v : Byte) : (s.writeKey j v).round = s.round := rfl
@[simp] theorem State.writeKey_cmd (s : State) (j : Fin 10) (v : Byte) : (s.writeKey j v).cmd = s.cmd := rfl
@[simp] theorem State.writeKey_status (s : State) (j : Fin 10) (v : Byte) : (s.writeKey j v).status = s.status := rfl
@[simp] theorem State.writeKey_tmp (s : State) (j : Fin 10) (v : Byte) : (s.writeKey j v).tmp = s.tmp := rfl
@[simp] theorem State.writeKey_phase (s : State) (j : Fin 10) (v : Byte) : (s.writeKey j v).phase = s.phase := rfl
@[simp] theorem State.writeKey_inputs (s : State) (j : Fin 10) (v : Byte) : (s.writeKey j v).inputs = s.inputs := rfl
@[simp] theorem State.writeKey_observed (s : State) (j : Fin 10) (v : Byte) : (s.writeKey j v).observed = s.observed := rfl

@[simp] theorem State.writePlane_batch (s : State) (p : Fin 64) (b : Fin 4) (v : Byte) : (s.writePlane p b v).batch = s.batch := rfl
@[simp] theorem State.writePlane_plane (s : State) (p : Fin 64) (b : Fin 4) (v : Byte) : (s.writePlane p b v).plane = s.plane.set p.val (withByteAt s.plane[p] b.val v) := rfl
@[simp] theorem State.writePlane_planeMark (s : State) (p : Fin 64) (b : Fin 4) (v : Byte) : (s.writePlane p b v).planeMark = s.planeMark.set (planeByteIndex p b).val true := rfl
@[simp] theorem State.writePlane_key (s : State) (p : Fin 64) (b : Fin 4) (v : Byte) : (s.writePlane p b v).key = s.key := rfl
@[simp] theorem State.writePlane_keyMark (s : State) (p : Fin 64) (b : Fin 4) (v : Byte) : (s.writePlane p b v).keyMark = s.keyMark := rfl
@[simp] theorem State.writePlane_round (s : State) (p : Fin 64) (b : Fin 4) (v : Byte) : (s.writePlane p b v).round = s.round := rfl
@[simp] theorem State.writePlane_cmd (s : State) (p : Fin 64) (b : Fin 4) (v : Byte) : (s.writePlane p b v).cmd = s.cmd := rfl
@[simp] theorem State.writePlane_status (s : State) (p : Fin 64) (b : Fin 4) (v : Byte) : (s.writePlane p b v).status = s.status := rfl
@[simp] theorem State.writePlane_tmp (s : State) (p : Fin 64) (b : Fin 4) (v : Byte) : (s.writePlane p b v).tmp = s.tmp := rfl
@[simp] theorem State.writePlane_phase (s : State) (p : Fin 64) (b : Fin 4) (v : Byte) : (s.writePlane p b v).phase = s.phase := rfl
@[simp] theorem State.writePlane_inputs (s : State) (p : Fin 64) (b : Fin 4) (v : Byte) : (s.writePlane p b v).inputs = s.inputs := rfl
@[simp] theorem State.writePlane_observed (s : State) (p : Fin 64) (b : Fin 4) (v : Byte) : (s.writePlane p b v).observed = s.observed := rfl

@[simp] theorem State.setBatch_batch (s : State) (f : Nat → Byte) : (s.setBatch f).batch = Memory.full 256 f := rfl
@[simp] theorem State.setBatch_plane (s : State) (f : Nat → Byte) : (s.setBatch f).plane = s.plane := rfl
@[simp] theorem State.setBatch_planeMark (s : State) (f : Nat → Byte) : (s.setBatch f).planeMark = s.planeMark := rfl
@[simp] theorem State.setBatch_key (s : State) (f : Nat → Byte) : (s.setBatch f).key = s.key := rfl
@[simp] theorem State.setBatch_keyMark (s : State) (f : Nat → Byte) : (s.setBatch f).keyMark = s.keyMark := rfl
@[simp] theorem State.setBatch_round (s : State) (f : Nat → Byte) : (s.setBatch f).round = s.round := rfl
@[simp] theorem State.setBatch_cmd (s : State) (f : Nat → Byte) : (s.setBatch f).cmd = s.cmd := rfl
@[simp] theorem State.setBatch_status (s : State) (f : Nat → Byte) : (s.setBatch f).status = s.status := rfl
@[simp] theorem State.setBatch_tmp (s : State) (f : Nat → Byte) : (s.setBatch f).tmp = s.tmp := rfl
@[simp] theorem State.setBatch_phase (s : State) (f : Nat → Byte) : (s.setBatch f).phase = s.phase := rfl
@[simp] theorem State.setBatch_inputs (s : State) (f : Nat → Byte) : (s.setBatch f).inputs = s.inputs := rfl
@[simp] theorem State.setBatch_observed (s : State) (f : Nat → Byte) : (s.setBatch f).observed = s.observed := rfl

@[simp] theorem State.setPlanes_batch (s : State) (p : Planes) : (s.setPlanes p).batch = s.batch := rfl
@[simp] theorem State.setPlanes_plane (s : State) (p : Planes) : (s.setPlanes p).plane = p := rfl
@[simp] theorem State.setPlanes_planeMark (s : State) (p : Planes) : (s.setPlanes p).planeMark = Vector.replicate 256 true := rfl
@[simp] theorem State.setPlanes_key (s : State) (p : Planes) : (s.setPlanes p).key = s.key := rfl
@[simp] theorem State.setPlanes_keyMark (s : State) (p : Planes) : (s.setPlanes p).keyMark = s.keyMark := rfl
@[simp] theorem State.setPlanes_round (s : State) (p : Planes) : (s.setPlanes p).round = s.round := rfl
@[simp] theorem State.setPlanes_cmd (s : State) (p : Planes) : (s.setPlanes p).cmd = s.cmd := rfl
@[simp] theorem State.setPlanes_status (s : State) (p : Planes) : (s.setPlanes p).status = s.status := rfl
@[simp] theorem State.setPlanes_tmp (s : State) (p : Planes) : (s.setPlanes p).tmp = s.tmp := rfl
@[simp] theorem State.setPlanes_phase (s : State) (p : Planes) : (s.setPlanes p).phase = s.phase := rfl
@[simp] theorem State.setPlanes_inputs (s : State) (p : Planes) : (s.setPlanes p).inputs = s.inputs := rfl
@[simp] theorem State.setPlanes_observed (s : State) (p : Planes) : (s.setPlanes p).observed = s.observed := rfl

@[simp] theorem State.setKey_batch (s : State) (k : Key) : (s.setKey k).batch = s.batch := rfl
@[simp] theorem State.setKey_plane (s : State) (k : Key) : (s.setKey k).plane = s.plane := rfl
@[simp] theorem State.setKey_planeMark (s : State) (k : Key) : (s.setKey k).planeMark = s.planeMark := rfl
@[simp] theorem State.setKey_key (s : State) (k : Key) : (s.setKey k).key = k := rfl
@[simp] theorem State.setKey_keyMark (s : State) (k : Key) : (s.setKey k).keyMark = Vector.replicate 10 true := rfl
@[simp] theorem State.setKey_round (s : State) (k : Key) : (s.setKey k).round = s.round := rfl
@[simp] theorem State.setKey_cmd (s : State) (k : Key) : (s.setKey k).cmd = s.cmd := rfl
@[simp] theorem State.setKey_status (s : State) (k : Key) : (s.setKey k).status = s.status := rfl
@[simp] theorem State.setKey_tmp (s : State) (k : Key) : (s.setKey k).tmp = s.tmp := rfl
@[simp] theorem State.setKey_phase (s : State) (k : Key) : (s.setKey k).phase = s.phase := rfl
@[simp] theorem State.setKey_inputs (s : State) (k : Key) : (s.setKey k).inputs = s.inputs := rfl
@[simp] theorem State.setKey_observed (s : State) (k : Key) : (s.setKey k).observed = s.observed := rfl

@[simp] theorem State.startCommand_batch (s : State) (v : Byte) : (s.startCommand v).batch = s.batch := rfl
@[simp] theorem State.startCommand_plane (s : State) (v : Byte) : (s.startCommand v).plane = s.plane := rfl
@[simp] theorem State.startCommand_planeMark (s : State) (v : Byte) : (s.startCommand v).planeMark = s.planeMark := rfl
@[simp] theorem State.startCommand_key (s : State) (v : Byte) : (s.startCommand v).key = s.key := rfl
@[simp] theorem State.startCommand_keyMark (s : State) (v : Byte) : (s.startCommand v).keyMark = s.keyMark := rfl
@[simp] theorem State.startCommand_round (s : State) (v : Byte) : (s.startCommand v).round = s.round := rfl
@[simp] theorem State.startCommand_cmd (s : State) (v : Byte) : (s.startCommand v).cmd = v := rfl
@[simp] theorem State.startCommand_status (s : State) (v : Byte) : (s.startCommand v).status = statusCleared := rfl
@[simp] theorem State.startCommand_tmp (s : State) (v : Byte) : (s.startCommand v).tmp = s.tmp := rfl
@[simp] theorem State.startCommand_phase (s : State) (v : Byte) : (s.startCommand v).phase = s.phase := rfl
@[simp] theorem State.startCommand_inputs (s : State) (v : Byte) : (s.startCommand v).inputs = s.inputs := rfl
@[simp] theorem State.startCommand_observed (s : State) (v : Byte) : (s.startCommand v).observed = s.observed := rfl

@[simp] theorem State.raiseError_batch (s : State) (c : ErrorCode) : (s.raiseError c).batch = s.batch := rfl
@[simp] theorem State.raiseError_plane (s : State) (c : ErrorCode) : (s.raiseError c).plane = s.plane := rfl
@[simp] theorem State.raiseError_planeMark (s : State) (c : ErrorCode) : (s.raiseError c).planeMark = s.planeMark := rfl
@[simp] theorem State.raiseError_key (s : State) (c : ErrorCode) : (s.raiseError c).key = s.key := rfl
@[simp] theorem State.raiseError_keyMark (s : State) (c : ErrorCode) : (s.raiseError c).keyMark = s.keyMark := rfl
@[simp] theorem State.raiseError_round (s : State) (c : ErrorCode) : (s.raiseError c).round = s.round := rfl
@[simp] theorem State.raiseError_cmd (s : State) (c : ErrorCode) : (s.raiseError c).cmd = s.cmd := rfl
@[simp] theorem State.raiseError_status (s : State) (c : ErrorCode) : (s.raiseError c).status = statusOfError c := rfl
@[simp] theorem State.raiseError_tmp (s : State) (c : ErrorCode) : (s.raiseError c).tmp = s.tmp := rfl
@[simp] theorem State.raiseError_phase (s : State) (c : ErrorCode) : (s.raiseError c).phase = s.phase := rfl
@[simp] theorem State.raiseError_inputs (s : State) (c : ErrorCode) : (s.raiseError c).inputs = s.inputs := rfl
@[simp] theorem State.raiseError_observed (s : State) (c : ErrorCode) : (s.raiseError c).observed = s.observed := rfl

@[simp] theorem State.complete_batch (s : State) : (s.complete).batch = s.batch := rfl
@[simp] theorem State.complete_plane (s : State) : (s.complete).plane = s.plane := rfl
@[simp] theorem State.complete_planeMark (s : State) : (s.complete).planeMark = s.planeMark := rfl
@[simp] theorem State.complete_key (s : State) : (s.complete).key = s.key := rfl
@[simp] theorem State.complete_keyMark (s : State) : (s.complete).keyMark = s.keyMark := rfl
@[simp] theorem State.complete_round (s : State) : (s.complete).round = s.round := rfl
@[simp] theorem State.complete_cmd (s : State) : (s.complete).cmd = s.cmd := rfl
@[simp] theorem State.complete_status (s : State) : (s.complete).status = statusWithDone s.status := rfl
@[simp] theorem State.complete_tmp (s : State) : (s.complete).tmp = s.tmp := rfl
@[simp] theorem State.complete_phase (s : State) : (s.complete).phase = s.phase := rfl
@[simp] theorem State.complete_inputs (s : State) : (s.complete).inputs = s.inputs := rfl
@[simp] theorem State.complete_observed (s : State) : (s.complete).observed = s.observed := rfl

@[simp] theorem State.recordUnmapped_batch (s : State) : (s.recordUnmapped).batch = s.batch := rfl
@[simp] theorem State.recordUnmapped_plane (s : State) : (s.recordUnmapped).plane = s.plane := rfl
@[simp] theorem State.recordUnmapped_planeMark (s : State) : (s.recordUnmapped).planeMark = s.planeMark := rfl
@[simp] theorem State.recordUnmapped_key (s : State) : (s.recordUnmapped).key = s.key := rfl
@[simp] theorem State.recordUnmapped_keyMark (s : State) : (s.recordUnmapped).keyMark = s.keyMark := rfl
@[simp] theorem State.recordUnmapped_round (s : State) : (s.recordUnmapped).round = s.round := rfl
@[simp] theorem State.recordUnmapped_cmd (s : State) : (s.recordUnmapped).cmd = s.cmd := rfl
@[simp] theorem State.recordUnmapped_status (s : State) : (s.recordUnmapped).status = statusWithUnmapped s.status := rfl
@[simp] theorem State.recordUnmapped_tmp (s : State) : (s.recordUnmapped).tmp = s.tmp := rfl
@[simp] theorem State.recordUnmapped_phase (s : State) : (s.recordUnmapped).phase = s.phase := rfl
@[simp] theorem State.recordUnmapped_inputs (s : State) : (s.recordUnmapped).inputs = s.inputs := rfl
@[simp] theorem State.recordUnmapped_observed (s : State) : (s.recordUnmapped).observed = s.observed := rfl

@[simp] theorem State.returnByte_batch (s : State) (b : Byte) : (s.returnByte b).batch = s.batch := rfl
@[simp] theorem State.returnByte_plane (s : State) (b : Byte) : (s.returnByte b).plane = s.plane := rfl
@[simp] theorem State.returnByte_planeMark (s : State) (b : Byte) : (s.returnByte b).planeMark = s.planeMark := rfl
@[simp] theorem State.returnByte_key (s : State) (b : Byte) : (s.returnByte b).key = s.key := rfl
@[simp] theorem State.returnByte_keyMark (s : State) (b : Byte) : (s.returnByte b).keyMark = s.keyMark := rfl
@[simp] theorem State.returnByte_round (s : State) (b : Byte) : (s.returnByte b).round = s.round := rfl
@[simp] theorem State.returnByte_cmd (s : State) (b : Byte) : (s.returnByte b).cmd = s.cmd := rfl
@[simp] theorem State.returnByte_status (s : State) (b : Byte) : (s.returnByte b).status = s.status := rfl
@[simp] theorem State.returnByte_tmp (s : State) (b : Byte) : (s.returnByte b).tmp = s.tmp := rfl
@[simp] theorem State.returnByte_phase (s : State) (b : Byte) : (s.returnByte b).phase = s.phase := rfl
@[simp] theorem State.returnByte_inputs (s : State) (b : Byte) : (s.returnByte b).inputs = s.inputs := rfl
@[simp] theorem State.returnByte_observed (s : State) (b : Byte) : (s.returnByte b).observed = s.observed ++ [b] := rfl

@[simp] theorem State.takeReset_batch (s : State) : (s.takeReset).batch = State.reset.batch := rfl
@[simp] theorem State.takeReset_plane (s : State) : (s.takeReset).plane = State.reset.plane := rfl
@[simp] theorem State.takeReset_planeMark (s : State) : (s.takeReset).planeMark = State.reset.planeMark := rfl
@[simp] theorem State.takeReset_key (s : State) : (s.takeReset).key = State.reset.key := rfl
@[simp] theorem State.takeReset_keyMark (s : State) : (s.takeReset).keyMark = State.reset.keyMark := rfl
@[simp] theorem State.takeReset_round (s : State) : (s.takeReset).round = State.reset.round := rfl
@[simp] theorem State.takeReset_cmd (s : State) : (s.takeReset).cmd = State.reset.cmd := rfl
@[simp] theorem State.takeReset_status (s : State) : (s.takeReset).status = State.reset.status := rfl
@[simp] theorem State.takeReset_tmp (s : State) : (s.takeReset).tmp = State.reset.tmp := rfl
@[simp] theorem State.takeReset_phase (s : State) : (s.takeReset).phase = State.reset.phase := rfl
@[simp] theorem State.takeReset_inputs (s : State) : (s.takeReset).inputs = s.inputs := rfl
@[simp] theorem State.takeReset_observed (s : State) : (s.takeReset).observed = s.observed := rfl

end Sys2Proof.Machine
end

