-- ==== Sys2Proof/Laws/Memory.lean ====
section
/-! SUPPORT. Byte storage: read after write, and that every operation keeps the canonical form. -/

namespace Sys2Proof.Machine

@[simp] theorem Memory.read_write_same (m : Memory) (a : Nat) (v : Byte) : (m.write a v).read a = some v := by
  induction m with
  | nil => simp [Memory.write, Memory.read]
  | cons c rest ih =>
    simp only [Memory.write]
    split
    · simp [Memory.read]
    · split
      · simp [Memory.read]
      · next h => simp [Memory.read, h, ih]

theorem Memory.read_write_other (m : Memory) (a b : Nat) (v : Byte) (h : b ≠ a) :
    (m.write a v).read b = m.read b := by
  induction m with
  | nil => simp [Memory.write, Memory.read, Ne.symm h]
  | cons c rest ih =>
    simp only [Memory.write]
    split
    · simp [Memory.read, Ne.symm h]
    · split
      · next hc => simp [Memory.read, Ne.symm h, hc]
      · simp [Memory.read, ih]

/-- Storage is canonical exactly when the addresses are strictly rising, pair by pair. -/
theorem Memory.wf_iff (m : Memory) : m.wf = true ↔ m.Pairwise fun c d => c.1 < d.1 := by
  induction m with
  | nil => simp [Memory.wf]
  | cons c rest ih =>
    cases rest with
    | nil => simp [Memory.wf]
    | cons d rest =>
      simp only [Memory.wf, Bool.and_eq_true, decide_eq_true_eq, ih]
      rw [List.pairwise_cons (a := c)]
      constructor
      · rintro ⟨hcd, hp⟩
        refine ⟨fun e he => ?_, hp⟩
        rcases List.mem_cons.mp he with rfl | he
        · exact hcd
        · exact lt_trans hcd ((List.pairwise_cons.mp hp).1 e he)
      · rintro ⟨hall, hp⟩
        exact ⟨hall d (by simp), hp⟩

/-- The cells of storage after a write are the new one and old ones. -/
theorem Memory.mem_write (m : Memory) (a : Nat) (v : Byte) (c : Host.Cell) (h : c ∈ m.write a v) :
    c = (a, v) ∨ c ∈ m := by
  induction m with
  | nil => simpa [Memory.write] using h
  | cons d rest ih =>
    simp only [Memory.write] at h
    split at h
    · simpa using h
    · split at h
      · rcases List.mem_cons.mp h with h | h
        · exact .inl h
        · exact .inr (List.mem_cons_of_mem _ h)
      · rcases List.mem_cons.mp h with h | h
        · exact .inr (by simp [h])
        · exact (ih h).imp id (List.mem_cons_of_mem _)

theorem Memory.write_wf (m : Memory) (a : Nat) (v : Byte) (h : m.wf = true) : (m.write a v).wf = true := by
  rw [Memory.wf_iff] at h ⊢
  induction m with
  | nil => simp [Memory.write]
  | cons c rest ih =>
    obtain ⟨hc, hrest⟩ := List.pairwise_cons.mp h
    simp only [Memory.write]
    split
    · next ha =>
      refine List.pairwise_cons.mpr ⟨fun d hd => ?_, h⟩
      rcases List.mem_cons.mp hd with rfl | hd
      · exact ha
      · exact lt_trans ha (hc d hd)
    · split
      · next hca => exact List.pairwise_cons.mpr ⟨fun d hd => by simpa [← hca] using hc d hd, hrest⟩
      · next ha hca =>
        refine List.pairwise_cons.mpr ⟨fun d hd => ?_, ih hrest⟩
        rcases Memory.mem_write _ _ _ _ hd with rfl | hd
        · show c.1 < a; omega
        · exact hc d hd

theorem Memory.full_wf (n : Nat) (f : Nat → Byte) : (Memory.full n f).wf = true := by
  rw [Memory.wf_iff, Memory.full, List.pairwise_map]
  exact List.pairwise_lt_range

theorem Memory.mem_full (n : Nat) (f : Nat → Byte) (c : Host.Cell) (h : c ∈ Memory.full n f) : c.1 < n := by
  simp only [Memory.full, List.mem_map, List.mem_range] at h
  obtain ⟨a, ha, rfl⟩ := h
  exact ha

theorem Memory.read_map (f : Nat → Byte) (l : List Nat) (a : Nat) :
    Memory.read (l.map fun x => (x, f x)) a = if a ∈ l then some (f a) else none := by
  induction l with
  | nil => simp [Memory.read]
  | cons x rest ih =>
    simp only [List.map_cons, Memory.read, ih, List.mem_cons]
    by_cases h : x = a
    · simp [h]
    · simp [h, Ne.symm h]

@[simp] theorem Memory.read_full (n : Nat) (f : Nat → Byte) (a : Nat) :
    (Memory.full n f).read a = if a < n then some (f a) else none := by
  simp [Memory.full, Memory.read_map]

/-- In canonical storage nothing stands at an address below the first. -/
theorem Memory.read_eq_none_of_forall_ne (m : Memory) (a : Nat) (h : ∀ c ∈ m, c.1 ≠ a) : m.read a = none := by
  induction m with
  | nil => rfl
  | cons c rest ih => simp [Memory.read, h c (by simp), ih fun d hd => h d (by simp [hd])]

theorem Memory.read_eq_some_of_mem (m : Memory) (h : m.wf = true) (c : Host.Cell) (hc : c ∈ m) :
    m.read c.1 = some c.2 := by
  rw [Memory.wf_iff] at h
  induction m with
  | nil => simp at hc
  | cons d rest ih =>
    obtain ⟨hd, hrest⟩ := List.pairwise_cons.mp h
    rcases List.mem_cons.mp hc with rfl | hc
    · simp [Memory.read]
    · have : d.1 ≠ c.1 := (hd c hc).ne
      simp [Memory.read, this, ih hrest hc]

/-- Reset storage is canonical. -/
theorem Memory.reset_wf : State.reset.batch.wf = true := rfl

theorem State.batchByte_setBatch (s : State) (f : Nat → Byte) (a : Nat) (h : a < 256) :
    ((s.setBatch f).batch.read a) = some (f a) := by
  simp [h]

end Sys2Proof.Machine
end

