-- ==== Sys2Proof/Laws/Commands.lean ====
section
/-! SUPPORT. What the shared operations of the port can do: the running of a command (60_exceptions.md R102), the regions of the
address map (20_memory.md R36), and a read and a write of one address. -/

namespace Sys2Proof.Machine

/-- A command whose round number is in range and whose operands are written completes (R102). -/
theorem runCommand_completes {c : Command} {effect : State → State} {s : State} (hr : s.roundInRange c = true)
    (hw : s.operandsWritten c = true) :
    runCommand c effect s = .next (effect (s.startCommand c.byte)).complete := by
  simp [runCommand, hr, hw]

/-- A command whose round number is out of range records ROUND_RANGE (R101, R103). -/
theorem runCommand_outOfRange {c : Command} {effect : State → State} {s : State} (hr : s.roundInRange c = false) :
    runCommand c effect s = .next ((s.startCommand c.byte).raiseError .roundRange) := by
  simp [runCommand, hr]

/-- A command in range that would read an unwritten byte is the fault UNINIT_READ (R28). -/
theorem runCommand_uninit {c : Command} {effect : State → State} {s : State} (hr : s.roundInRange c = true)
    (hw : s.operandsWritten c = false) : runCommand c effect s = .fault (.uninitReadBy c) := by
  simp [runCommand, hr, hw]

/-- Everything a command that goes on can have done. -/
theorem runCommand_next {c : Command} {effect : State → State} {s t : State} (h : runCommand c effect s = .next t) :
    (s.roundInRange c = true ∧ s.operandsWritten c = true ∧ t = (effect (s.startCommand c.byte)).complete) ∨
      (s.roundInRange c = false ∧ t = (s.startCommand c.byte).raiseError .roundRange) := by
  unfold runCommand at h
  split at h
  · split at h
    · exact .inl ⟨‹_›, ‹_›, by simpa using h.symm⟩
    · simp at h
  · next hr => exact .inr ⟨by simpa using hr, by simpa using h.symm⟩

/-- A command never stops but with UNINIT_READ under its own name. -/
theorem runCommand_ne_refused {c : Command} {effect : State → State} {s : State} (r : Refusal) :
    runCommand c effect s ≠ .refused r := by
  unfold runCommand
  split <;> [split; skip] <;> simp

/-- Every command mnemonic is one running of a command: the lemmas about `runCommand` say what it can do (R102). -/
theorem exec_command (c : Command) (s : State) : exec c.instr s = runCommand c (commandEffect c) s := by
  cases c <;> simp only [Command.instr, exec, commandEffect, execNop, execEncode, execDecode, execKsadv, execKeymix,
    execSbox, execPlayer, execRound, execEncrypt]

/-- Everything a command mnemonic that goes on can have done: its whole effect, or ROUND_RANGE (R99, R102). -/
theorem exec_command_next {c : Command} {s t : State} (h : exec c.instr s = .next t) :
    (s.roundInRange c = true ∧ s.operandsWritten c = true ∧ t = (commandEffect c (s.startCommand c.byte)).complete) ∨
      (s.roundInRange c = false ∧ t = (s.startCommand c.byte).raiseError .roundRange) :=
  runCommand_next (exec_command c s ▸ h)

@[simp] theorem decodeCommand_byte (c : Command) : decodeCommand c.byte = .ok c := by cases c <;> rfl

/-- A byte that decodes to a command is that command's byte (R54). -/
theorem decodeCommand_ok {v : Byte} {c : Command} (h : decodeCommand v = .ok c) : v = c.byte := by
  have all : ∀ n : Fin 256, ∀ c : Command, decodeCommand (BitVec.ofFin n) = .ok c → BitVec.ofFin n = c.byte := by
    intro n c
    revert n
    cases c <;> decide +kernel
  exact all v.toFin c h

/-- The error of a byte that is no command is the one its decoding names (R56, R57). -/
theorem decodeCommand_error {v : Byte} {e : DecodeError} (h : decodeCommand v = .error e) :
    (e = .reservedBits v ∧ commandError v = .reservedBits) ∨ (e = .illegalOp v ∧ commandError v = .illegalOp) := by
  unfold decodeCommand at h
  split at h
  · next hr => exact .inl ⟨by simpa using h.symm, by simp [commandError, hr]⟩
  · next hr =>
    split at h
    · simp at h
    · exact .inr ⟨by simpa using h.symm, by simp at hr; simp [commandError, hr]⟩

/-- A command performed at CMD is its mnemonic executed (R62). -/
theorem performCommand_eq_exec (c : Command) (s : State) : performCommand c s = exec c.instr s := by cases c <;> rfl

theorem writeCommand_byte (c : Command) (s : State) : writeCommand c.byte s = exec c.instr s := by
  simp [writeCommand, performCommand_eq_exec]

theorem region_batch {a : PortAddr} (h : a.toNat < 0x100) : region a = .batch ⟨a.toNat, h⟩ := by simp [region, h]

theorem region_key {a : PortAddr} (h : 0x100 ≤ a.toNat) (h' : a.toNat < 0x10A) :
    region a = .key ⟨a.toNat - 0x100, by omega⟩ := by
  simp [region, h', not_lt.mpr h]

theorem region_plane {a : PortAddr} (h : 0x200 ≤ a.toNat) (h' : a.toNat < 0x300) :
    region a = .plane ⟨(a.toNat - 0x200) / 4, by omega⟩ ⟨(a.toNat - 0x200) % 4, by omega⟩ := by
  have h1 : ¬ a.toNat < 0x100 := by omega
  have h2 : ¬ a.toNat < 0x10A := by omega
  have h3 : a.toNat ≠ 0x110 := by omega
  have h4 : a.toNat ≠ 0x111 := by omega
  have h5 : a.toNat ≠ 0x112 := by omega
  simp [region, h1, h2, h3, h4, h5, h, h']

/-- The reserved addresses are those of R40, and no others. -/
theorem region_reserved_iff (a : PortAddr) :
    region a = .reserved ↔
      (0x10A ≤ a.toNat ∧ a.toNat ≤ 0x10F) ∨ (0x113 ≤ a.toNat ∧ a.toNat ≤ 0x1FF) ∨ 0x300 ≤ a.toNat := by
  unfold region
  split_ifs <;> simp <;> omega

/-- Every address is what R36 says it is: the map read backwards. -/
theorem region_cases (a : PortAddr) :
    (∃ x : Fin 256, region a = .batch x ∧ a.toNat = x.val) ∨
      (∃ j : Fin 10, region a = .key j ∧ a.toNat = 0x100 + j.val) ∨
      (region a = .cmd ∧ a.toNat = 0x110) ∨ (region a = .status ∧ a.toNat = 0x111) ∨
      (region a = .round ∧ a.toNat = 0x112) ∨
      (∃ (p : Fin 64) (b : Fin 4), region a = .plane p b ∧ a.toNat = 0x200 + 4 * p.val + b.val) ∨
      region a = .reserved := by
  unfold region
  split_ifs with h1 h2 h3 h4 h5 h6
  · exact .inl ⟨_, rfl, rfl⟩
  · exact .inr (.inl ⟨_, rfl, by show a.toNat = 0x100 + (a.toNat - 0x100); omega⟩)
  · exact .inr (.inr (.inl ⟨rfl, h3⟩))
  · exact .inr (.inr (.inr (.inl ⟨rfl, h4⟩)))
  · exact .inr (.inr (.inr (.inr (.inl ⟨rfl, h5⟩))))
  · refine .inr (.inr (.inr (.inr (.inr (.inl ⟨_, _, rfl, ?_⟩)))))
    show a.toNat = 0x200 + 4 * ((a.toNat - 0x200) / 4) + (a.toNat - 0x200) % 4
    omega
  · exact .inr (.inr (.inr (.inr (.inr (.inr rfl)))))

theorem planeByteIndex_inj {p q : Fin 64} {b c : Fin 4} (h : planeByteIndex p b = planeByteIndex q c) :
    p = q ∧ b = c := by
  have h' : 4 * p.val + b.val = 4 * q.val + c.val := congrArg Fin.val h
  exact ⟨Fin.ext (by omega), Fin.ext (by omega)⟩

@[simp] theorem State.readBatch_writeBatch_same (s : State) (a : Fin 256) (v : Byte) :
    (s.writeBatch a v).readBatch a = some v := by
  simp [State.readBatch]

theorem State.readBatch_writeBatch_other (s : State) (a b : Fin 256) (v : Byte) (h : b ≠ a) :
    (s.writeBatch a v).readBatch b = s.readBatch b := by
  simp [State.readBatch, Memory.read_write_other _ _ _ _ (Fin.val_ne_of_ne h)]

/-- Everything a read can do (R33): it returns the byte at the address, or it is UNINIT_READ there. -/
theorem execRd_cases (a : PortAddr) (s : State) :
    (∃ v, s.peek a = some v ∧ execRd a s = .next ((s.noteRead a).returnByte v)) ∨
      (s.peek a = none ∧ execRd a s = .fault (.uninitReadAt a)) := by
  unfold execRd
  cases h : s.peek a with
  | none => exact .inr ⟨rfl, rfl⟩
  | some v => exact .inl ⟨v, rfl, rfl⟩

/-- Outside CMD a write always goes on: everything it can have done (R34). -/
theorem execWr_cases (a : PortAddr) (d : Byte) (s : State) :
    (∃ x, region a = .batch x ∧ execWr a d s = .next (s.writeBatch x d)) ∨
      (∃ j, region a = .key j ∧ execWr a d s = .next (s.writeKey j d)) ∨
      (region a = .cmd ∧ execWr a d s = writeCommand d s) ∨
      (region a = .status ∧ execWr a d s = .next s) ∨
      (region a = .round ∧ ∃ t, execWr a d s = .next t ∧ t = { s with round := d.extractLsb' 0 6 }) ∨
      (∃ p b, region a = .plane p b ∧ execWr a d s = .next (s.writePlane p b d)) ∨
      (region a = .reserved ∧ execWr a d s = .next s.recordUnmapped) := by
  unfold execWr
  cases h : region a <;> simp

/-- No instruction is refused: only a word that is none can be (R59). -/
theorem exec_ne_refused (i : Instr) (s : State) (r : Refusal) : exec i s ≠ .refused r := by
  have command : ∀ c : Command, exec c.instr s ≠ .refused r := fun c => by
    rw [exec_command]
    exact runCommand_ne_refused r
  cases i with
  | nop => exact command .nop
  | encode => exact command .encode
  | decode => exact command .decode
  | ksadv => exact command .ksadv
  | keymix => exact command .keymix
  | sbox => exact command .sbox
  | player => exact command .player
  | round => exact command .round
  | encrypt => exact command .encrypt
  | rd a => rcases execRd_cases a s with ⟨v, _, h⟩ | ⟨_, h⟩ <;> simp [exec, h]
  | wr a d =>
    rcases execWr_cases a d s with ⟨x, _, h⟩ | ⟨j, _, h⟩ | ⟨_, h⟩ | ⟨_, h⟩ | ⟨_, t, h, _⟩ | ⟨p, b, _, h⟩ | ⟨_, h⟩ <;>
      simp only [exec, h, ne_eq, reduceCtorEq, not_false_eq_true]
    unfold writeCommand
    split
    · rw [performCommand_eq_exec]
      exact command _
    · simp

end Sys2Proof.Machine
end

