-- ==== Sys2Proof/Laws/Engine.lean ====
section
/-! SUPPORT. One lemma for each layer of the cipher on the planes, bit by bit, and what each effect does to the state. -/

namespace Sys2Proof.Machine

theorem lane_getLsbD (p : Planes) (k : Fin 32) (i : Fin 64) : (lane p k).getLsbD i.val = p[i].getLsbD k.val := by
  rw [lane, ofBits_getLsbD _ _ i.isLt]

/-- ENCODE's planes hold `bit(k, i)` (R65). -/
theorem encodedPlanes_getLsbD (s : State) (i : Fin 64) (k : Fin 32) :
    (encodedPlanes s)[i].getLsbD k.val = s.bit k i := by
  simp only [encodedPlanes, Fin.getElem_fin, tabulate_getElem]
  rw [ofBits_getLsbD _ _ k.isLt]

/-- DECODE's bytes hold the plane bits (R66). -/
theorem decodedByte_getLsbD (p : Planes) (a t : Nat) (h : t < 8) :
    (decodedByte p a).getLsbD t = (p[8 * (a % 8) + t]'(by omega)).getLsbD (a / 8) := by
  simp only [decodedByte, ofBits_getLsbD _ _ h]

/-- Key mixing, bit by bit (R79). -/
theorem keyMixed_getLsbD (p : Planes) (rk : Block) (i : Fin 64) (k : Fin 32) :
    (keyMixed p rk)[i].getLsbD k.val = (p[i].getLsbD k.val ^^ rk.getLsbD i.val) := by
  simp only [keyMixed, Fin.getElem_fin, tabulate_getElem, BitVec.getLsbD_xor, rep32_getLsbD _ _ k.isLt]

/-- The substitution layer, bit by bit (R81). -/
theorem substituted_getLsbD (p : Planes) (i : Fin 64) (k : Fin 32) :
    (substituted p)[i].getLsbD k.val =
      (sbox (nibble p ⟨i.val / 4, by omega⟩ k.val)).getLsbD (i.val % 4) := by
  simp only [substituted, Fin.getElem_fin, tabulate_getElem]
  rw [ofBits_getLsbD _ _ k.isLt]

theorem permutedIndex_injective {i j : Fin 64} (h : permutedIndex i = permutedIndex j) : i = j := by
  have h' : i.val / 4 + i.val % 4 * 16 = j.val / 4 + j.val % 4 * 16 := congrArg Fin.val h
  exact Fin.ext (by omega)

theorem foldl_set_getElem (p : Planes) (l : List (Fin 64)) (hl : l.Nodup) (tmp : Planes) (i : Fin 64) :
    (l.foldl (fun t j => t.set (permutedIndex j).val p[j]) tmp)[permutedIndex i] =
      if i ∈ l then p[i] else tmp[permutedIndex i] := by
  induction l generalizing tmp with
  | nil => simp
  | cons j rest ih =>
    obtain ⟨hj, hrest⟩ := List.nodup_cons.mp hl
    rw [List.foldl_cons, ih hrest]
    by_cases hi : i ∈ rest
    · simp [hi]
    · by_cases hij : i = j
      · subst hij; simp [hi]
      · have : (permutedIndex j).val ≠ (permutedIndex i).val := fun h =>
          hij (permutedIndex_injective (Fin.ext h)).symm
        simp [hi, hij, Vector.getElem_set_ne _ _ this]

/-- The buffer after the permutation holds plane `i` at `P(i)`, whatever it held before (R84, R26). -/
theorem permutedInto_getElem (tmp p : Planes) (i : Fin 64) : (permutedInto tmp p)[permutedIndex i] = p[i] := by
  rw [permutedInto, foldl_set_getElem p _ (List.nodup_finRange 64)]
  simp

/-- The effects of the commands on the state, each as one equation. -/
theorem encodeEffect_eq (s : State) : encodeEffect s = s.setPlanes (encodedPlanes s) := rfl
theorem decodeEffect_eq (s : State) : decodeEffect s = s.setBatch (decodedByte s.plane) := rfl
theorem keyMixEffect_eq (s : State) : keyMixEffect s = s.setPlanes (keyMixed s.plane (roundKey s.key)) := rfl
theorem sboxEffect_eq (s : State) : sboxEffect s = s.setPlanes (substituted s.plane) := rfl
theorem playerEffect_eq (s : State) :
    playerEffect s =
      { s with
        tmp := permutedInto s.tmp s.plane
        plane := permutedInto s.tmp s.plane
        planeMark := Vector.replicate 256 true } := by
  simp only [playerEffect, fillTmp, State.setPlanes]
theorem keyScheduleEffect_eq (r : Round) (s : State) : keyScheduleEffect r s = s.setKey (keySchedule s.key r) := rfl

/-- The planes after one round's three layers (R87). -/
def roundPlanes (s : State) : Planes :=
  permutedInto s.tmp (substituted (keyMixed s.plane (roundKey s.key)))

/-- One round as one equation (R87). -/
theorem roundEffect_eq (r : Round) (s : State) :
    roundEffect r s =
      { s with
        tmp := roundPlanes s
        plane := roundPlanes s
        planeMark := Vector.replicate 256 true
        key := keySchedule s.key r
        keyMark := Vector.replicate 10 true
        round := r + 1#6 } := by
  simp only [roundEffect, roundPlanes, keyScheduleEffect, playerEffect, fillTmp, sboxEffect, keyMixEffect,
    State.setPlanes, State.setKey]

/-- Four phases of the sequencer are one round (R27, R87). -/
theorem runSequencer_round (r : Round) (n : Nat) (s : State) (h : s.phase = .rnd r .keyMix) :
    runSequencer (n + 4) s = runSequencer n { roundEffect r s with phase := phaseAfterRound r } := by
  simp only [runSequencer]
  congr 1
  simp only [sequencerStep, h, roundEffect, keyMixEffect, sboxEffect, playerEffect, fillTmp, keyScheduleEffect,
    State.setPlanes, State.setKey]

@[simp] theorem runSequencer_zero (s : State) : runSequencer 0 s = s := rfl

/-- An idle sequencer stays idle (R115). -/
theorem sequencerStep_idle (s : State) (h : s.phase = .idle) : sequencerStep s = s := by
  simp [sequencerStep, h]

/-- The sequencer writes neither CMD nor STATUS. -/
theorem runSequencer_cmd_status (n : Nat) (s : State) :
    (runSequencer n s).cmd = s.cmd ∧ (runSequencer n s).status = s.status := by
  induction n generalizing s with
  | zero => simp
  | succ n ih =>
    rw [runSequencer, (ih _).1, (ih _).2]
    unfold sequencerStep
    split <;> simp [encodeEffect_eq, keyMixEffect_eq, sboxEffect_eq, playerEffect_eq, keyScheduleEffect_eq,
      decodeEffect_eq]

/-- No command's effect writes CMD or STATUS: its start and its completion do (R102). -/
theorem commandEffect_cmd_status (c : Command) (s : State) :
    (commandEffect c s).cmd = s.cmd ∧ (commandEffect c s).status = s.status := by
  cases c <;> simp only [commandEffect, encodeEffect_eq, keyMixEffect_eq, sboxEffect_eq, playerEffect_eq,
    keyScheduleEffect_eq, decodeEffect_eq, roundEffect_eq, encryptEffect, runSequencer_cmd_status,
    State.setPlanes_status, State.setPlanes_cmd, State.setBatch_status, State.setBatch_cmd, State.setKey_cmd,
    State.setKey_status, and_self]

/-- A command that completes leaves STATUS = 0x01 (R102). -/
theorem completed_status (c : Command) (s : State) (v : Byte) :
    (commandEffect c (s.startCommand v)).complete.status = 0x01#8 := by
  simp only [State.complete_status, (commandEffect_cmd_status c _).2, State.startCommand_status]
  rfl

end Sys2Proof.Machine
end

