-- ==== Sys2Proof/Laws/PerInstr.lean ====
section
/-! SUPPORT. The family TableRow: the encoding of every instruction is a word of its own row of spec/opcode_table.json (its
length, and the row's value under the row's mask) and passes the checks of a well-formed word. -/

namespace Sys2Proof.Laws

theorem wordValue_wordBytes (w : BitVec 19) : wordValue (wordBytes w) = w.toNat := by
  have h := w.isLt
  simp only [wordBytes, wordValue, BitVec.extractLsb'_toNat, Nat.shiftRight_eq_div_pow]
  omega

/-- The three bytes of a 19-bit word, put together again, are the word with zeros above it. -/
theorem join_wordBytes (w : BitVec 19) :
    w.extractLsb' 16 8 ++ w.extractLsb' 8 8 ++ w.extractLsb' 0 8 = w.setWidth 24 := by
  apply BitVec.eq_of_getLsbD_eq
  intro i hi
  simp only [BitVec.getLsbD_append, BitVec.getLsbD_extractLsb', BitVec.getLsbD_setWidth, hi]
  by_cases h1 : i < 8
  · simp [h1]
  · by_cases h2 : i - 8 < 8
    · simp [h1, h2, show 8 + (i - 8) = i by omega]
    · simp [h1, h2, show 16 + (i - 8 - 8) = i by omega, show i - 8 - 8 < 8 by omega]

/-- The fields of a WR word: D below A below W = 1 (R59). -/
theorem writeWord_getLsbD (a : PortAddr) (d : Byte) (i : Nat) :
    (writeWord a d).getLsbD i =
      if i < 8 then d.getLsbD i else if i < 18 then a.getLsbD (i - 8) else decide (i = 18) := by
  show ((1#1 ++ a ++ d : BitVec (1 + 10 + 8))).getLsbD i = _
  simp only [BitVec.getLsbD_append, BitVec.getLsbD_one]
  split_ifs <;> first | rfl | omega | (simp; omega)

/-- The fields of an RD word: zeros below A below W = 0 (R59). -/
theorem readWord_getLsbD (a : PortAddr) (i : Nat) :
    (readWord a).getLsbD i = if i < 8 then false else if i < 18 then a.getLsbD (i - 8) else false := by
  show ((0#1 ++ a ++ 0#8 : BitVec (1 + 10 + 8))).getLsbD i = _
  simp only [BitVec.getLsbD_append, BitVec.getLsbD_zero]
  split_ifs <;> first | rfl | omega

namespace TableRow

/-- An instruction's word is of its row of the opcode table, and well-formed. -/
def Statement (i : Instr) : Prop :=
  (encode i).length = (tableRow i).nbytes ∧ wordValue (encode i) &&& (tableRow i).mask = (tableRow i).value ∧
    WellFormed.word (encode i) = true

theorem nop : Statement .nop := by unfold Statement; decide
theorem encode : Statement .encode := by unfold Statement; decide
theorem decode : Statement .decode := by unfold Statement; decide
theorem ksadv : Statement .ksadv := by unfold Statement; decide
theorem keymix : Statement .keymix := by unfold Statement; decide
theorem sbox : Statement .sbox := by unfold Statement; decide
theorem player : Statement .player := by unfold Statement; decide
theorem round : Statement .round := by unfold Statement; decide
theorem encrypt : Statement .encrypt := by unfold Statement; decide

theorem wr (a : PortAddr) (d : Byte) : Statement (.wr a d) := by
  refine ⟨rfl, ?_, ?_⟩
  · have hm : (writeWord a d) &&& 0x40000#19 = 0x40000#19 := by
      apply BitVec.eq_of_getLsbD_eq
      intro i hi
      have h18 : ∀ j : Fin 19, (0x40000#19).getLsbD j.val = decide (j.val = 18) := by decide
      rw [BitVec.getLsbD_and, h18 ⟨i, hi⟩]
      by_cases h : i = 18
      · simp [writeWord_getLsbD, h]
      · simp [h]
    have := congrArg BitVec.toNat hm
    simpa [Sys2Proof.encode, wordValue_wordBytes, tableRow] using this
  · simp only [Sys2Proof.encode, wordBytes, WellFormed.word, join_wordBytes, WellFormed.transaction,
      WellFormed.noHighBits, WellFormed.readDataClear, Bool.and_eq_true, Bool.or_eq_true, beq_iff_eq]
    refine ⟨?_, .inl ?_⟩
    · apply BitVec.eq_of_getLsbD_eq
      intro i hi
      simp only [BitVec.getLsbD_extractLsb', BitVec.getLsbD_setWidth, hi]
      rw [BitVec.getLsbD_of_ge (writeWord a d) (19 + i) (by omega)]
      simp
    · rw [BitVec.getLsbD_setWidth, writeWord_getLsbD]; rfl

theorem rd (a : PortAddr) : Statement (.rd a) := by
  refine ⟨rfl, ?_, ?_⟩
  · have hm : (readWord a) &&& 0x400FF#19 = 0#19 := by
      apply BitVec.eq_of_getLsbD_eq
      intro i hi
      have h18 : ∀ j : Fin 19, (0x400FF#19).getLsbD j.val = (decide (j.val = 18) || decide (j.val < 8)) := by decide
      rw [BitVec.getLsbD_and, h18 ⟨i, hi⟩]
      by_cases h : i = 18
      · have hw : (readWord a).getLsbD i = false := by rw [readWord_getLsbD, if_neg (by omega), if_neg (by omega)]
        simp [hw]
      · by_cases h' : i < 8
        · simp [readWord_getLsbD, h']
        · simp [h, h']
    have := congrArg BitVec.toNat hm
    simpa [Sys2Proof.encode, wordValue_wordBytes, tableRow] using this
  · simp only [Sys2Proof.encode, wordBytes, WellFormed.word, join_wordBytes, WellFormed.transaction,
      WellFormed.noHighBits, WellFormed.readDataClear, Bool.and_eq_true, Bool.or_eq_true, beq_iff_eq]
    refine ⟨?_, .inr ?_⟩
    · apply BitVec.eq_of_getLsbD_eq
      intro i hi
      simp only [BitVec.getLsbD_extractLsb', BitVec.getLsbD_setWidth, hi]
      rw [BitVec.getLsbD_of_ge (readWord a) (19 + i) (by omega)]
      simp
    · apply BitVec.eq_of_getLsbD_eq
      intro i hi
      simp [readWord_getLsbD, hi]

end TableRow

end Sys2Proof.Laws
end

