-- ==== Sys2Proof/Tests/Slice0.lean ====
section
/-! SUPPORT. Tests. Expected values are the spec's own: the words of 30_encoding.md and the vectors V<n> of
95_test_vectors.md. Then, for each statement with hypotheses, a state that meets them. -/

namespace Sys2Proof.Tests

open Sys2Proof.Machine Sys2Proof.Claims

/-- What a meaning leaves, or the answer `false` where it stops. -/
def after (o : Host.Outcome State Fault Refusal) (f : State → Bool) : Bool :=
  match o with
  | .next t => f t
  | .fault _ => false
  | .refused _ => false

def faultOf (o : Host.Outcome State Fault Refusal) : Option Fault :=
  match o with
  | .fault f => some f
  | .next _ => none
  | .refused _ => none

def refusalOf (o : Host.Outcome State Fault Refusal) : Option Refusal :=
  match o with
  | .refused r => some r
  | .next _ => none
  | .fault _ => none

/-- A state with everything written: BATCH and PLANE all zero, the key `k`, the round number `r`. -/
def ready (k : Key) (r : Round) : State :=
  { State.reset with
    batch := Memory.full 256 fun _ => 0x00#8
    planeMark := Vector.replicate 256 true
    key := k
    keyMark := Vector.replicate 10 true
    round := r }

/-- The same with plane `i` holding `f i`. -/
def withPlanes (f : Nat → Plane) (s : State) : State := { s with plane := tabulate 64 fun i => f i.val }

/-- Planes whose 32 lanes are all the block `b`. -/
def sameLanes (b : Block) (s : State) : State := withPlanes (fun i => rep32 (b.getLsbD i)) s

/-! ### Decoding: words written out from the encodings -/

theorem test_decode_nop : decode [0b00000000#8] = .ok .nop := by decide
theorem test_decode_encode : decode [0b00000001#8] = .ok .encode := by decide
theorem test_decode_decode : decode [0b00000010#8] = .ok .decode := by decide
theorem test_decode_ksadv : decode [0b00000011#8] = .ok .ksadv := by decide
theorem test_decode_keymix : decode [0b00000100#8] = .ok .keymix := by decide
theorem test_decode_sbox : decode [0b00000101#8] = .ok .sbox := by decide
theorem test_decode_player : decode [0b00000110#8] = .ok .player := by decide
theorem test_decode_round : decode [0b00000111#8] = .ok .round := by decide
theorem test_decode_encrypt : decode [0b00001000#8] = .ok .encrypt := by decide
/-- R59: W = 1, A = 01 0001 0000, D = 0000 1000 is the word 0x51008. -/
theorem test_decode_wr : decode [0b00001000#8, 0b00010000#8, 0b00000101#8] = .ok (.wr 0b0100010000#10 0b00001000#8) := by
  decide
/-- R59: W = 0, A = 01 0001 0001, D = 0 is the word 0x11100. -/
theorem test_decode_rd : decode [0b00000000#8, 0b00010001#8, 0b00000001#8] = .ok (.rd 0b0100010001#10) := by decide
/-- P3: `WR 0x105, 0xFF` is 0x505FF. -/
theorem test_encode_wr : wordValue (encode (.wr 0x105#10 0xFF#8)) = 0x505FF := by decide
/-- P5: READBLK 31 begins with the word 0x0F800. -/
theorem test_encode_rd : wordValue (encode (.rd 0x0F8#10)) = 0x0F800 := by decide

/-! ### Ill-formed words, one for each check -/

theorem test_reserved_bits_refused : WellFormed.reservedClear 0x18#8 = false ∧ decode [0x18#8] = .error (.reservedBits 0x18#8) := by
  decide
theorem test_illegal_opcode_refused : WellFormed.opcodeLegal 0x09#8 = false ∧ decode [0x09#8] = .error (.illegalOp 0x09#8) := by
  decide
theorem test_high_bits_refused :
    WellFormed.noHighBits 0x0C0000#24 = false ∧ decode [0x00#8, 0x00#8, 0x0C#8] = .error (.highBits 0x0C0000#24) := by decide
theorem test_read_with_data_refused :
    WellFormed.readDataClear 0x011101#24 = false ∧ decode [0x01#8, 0x11#8, 0x01#8] = .error (.readWithData 0x011101#24) := by
  decide
theorem test_two_bytes_refused : WellFormed.word [0x08#8, 0x00#8] = false ∧ decode [0x08#8, 0x00#8] = .error (.noSuchLength 2) := by
  decide

/-! ### The commands -/

/-- V10: `BATCH[0x2B]` = 0x04 gives `PLANE[26]` = 0x20. -/
theorem test_encode_single_bit :
    (encodedPlanes { State.reset with batch := Memory.full 256 fun a => if a = 0x2B then 0x04#8 else 0x00#8 })[26] =
      0x00000020#32 := by
  decide +kernel

/-- V12: `PLANE[9]` = 0x80000001 gives `BATCH[0x01]` = `BATCH[0xF9]` = 0x02. -/
theorem test_decode_one_plane :
    after (exec .decode (withPlanes (fun i => if i = 9 then 0x80000001#32 else 0#32) (ready 0 0))) (fun t =>
      t.readBatch 0x01 == some 0x02#8 && t.readBatch 0xF9 == some 0x02#8 && t.readBatch 0x02 == some 0x00#8
        && t.status == 0x01#8 && t.cmd == 0x02#8) = true := by
  decide +kernel

/-- V23: KSADV with ROUND = 31 from the zero key. -/
theorem test_ksadv_all_counter_bits :
    after (exec .ksadv (ready 0 31)) (fun t => t.key == 0xC00000000000000F8000#80 && t.round == 31#6) = true := by
  decide +kernel

/-- V21: KSADV with ROUND = 2 from `K_2` of the all-ones key. -/
theorem test_ksadv_second_round :
    after (exec .ksadv (ready 0x2FFFFFFFFFFFFFFF7FFF#80 2)) (fun t => t.key == 0x1FFFE5FFFFFFFFFEFFFF#80) = true := by
  decide +kernel

/-- V23, P4: with ROUND = 0 nothing but CMD and STATUS changes, and an unwritten KEY is not read. -/
theorem test_ksadv_round_range :
    after (exec .ksadv State.reset) (fun t => t.status == 0x0E#8 && t.cmd == 0x03#8 && t.key == 0#80) = true := by
  decide +kernel

/-- V30: `KEY` = 00 00 01 00 .. 80 mixes planes 0 and 63 only. -/
theorem test_keymix_ends :
    after (exec .keymix (ready 0x80000000000000010000#80 0)) (fun t =>
      t.plane[0] == 0xFFFFFFFF#32 && t.plane[63] == 0xFFFFFFFF#32 && t.plane[1] == 0#32 && t.plane[62] == 0#32) = true := by
  decide +kernel

/-- V30: `KEY[0]` and `KEY[1]` are not mixed. -/
theorem test_keymix_skips_two_bytes :
    after (exec .keymix (ready 0x0000000000000000FFFF#80 0)) (fun t => t.plane[0] == 0#32 && t.plane[15] == 0#32) = true := by
  decide +kernel

/-- V31: all sixteen nibbles at once. -/
theorem test_sbox_all_inputs :
    after (exec .sbox (withPlanes (fun i => if i = 0 then 0xAAAAAAAA#32 else if i = 1 then 0xCCCCCCCC#32
        else if i = 2 then 0xF0F0F0F0#32 else if i = 3 then 0xFF00FF00#32 else 0#32) (ready 0 0))) (fun t =>
      t.plane[0] == 0x659A659A#32 && t.plane[1] == 0xA74CA74C#32 && t.plane[2] == 0x36873687#32
        && t.plane[3] == 0x0ED90ED9#32) = true := by
  decide +kernel

/-- V34: `PLANE[i]` = `i`. -/
theorem test_player_moves :
    after (exec .player (withPlanes (fun i => BitVec.ofNat 32 i) (ready 0 0))) (fun t =>
      t.plane[16] == 1#32 && t.plane[1] == 4#32 && t.plane[47] == 62#32 && t.plane[21] == 21#32
        && t.plane[63] == 63#32) = true := by
  decide +kernel

/-- V35: ROUND from zero. -/
theorem test_round_from_zero :
    after (exec .round (ready 0 1)) (fun t =>
      t.plane[31] == 0#32 && t.plane[32] == 0xFFFFFFFF#32 && t.key == 0xC0000000000000008000#80 && t.round == 2#6
        && t.status == 0x01#8) = true := by
  decide +kernel

/-- The state in ENCRYPT's round 31, with lanes and key as V36 and V20 give them after round 30. -/
def inLastRound : State :=
  { sameLanes 0x4A38C5E00283FBA1#64 (ready 0x8BA27A0EB8783AC96D59#80 31) with phase := .rnd 31 .keyMix }

/-- V36, V20: ENCRYPT's last round and its whitening, from the state after round 30. -/
theorem test_driver_last_round_and_whitening :
    (lane (runSequencer 5 inLastRound).plane 7 == 0x5579C1387B228445#64
      && (runSequencer 5 inLastRound).key == 0x6DAB31744F41D7008759#80
      && (runSequencer 5 inLastRound).round == 32#6 && (runSequencer 5 inLastRound).phase == .dec) = true := by
  decide +kernel

/-- V1: the known answer, by the reference cipher. -/
theorem test_reference_known_answer : encryptRef 0#64 0#80 = 0x5579C1387B228445#64 := by decide +kernel

/-- V43: NOP clears the record of an unmapped access. -/
theorem test_nop_clears_stale_error :
    after (exec .nop { State.reset with status := 0x12#8 }) (fun t => t.status == 0x01#8) = true := by decide

/-- R28: nothing is written after reset, so ENCRYPT is the fault UNINIT_READ by name. -/
theorem test_encrypt_after_reset_faults : faultOf (exec .encrypt State.reset) = some (.uninitReadBy .encrypt) := by
  decide +kernel

/-! ### The port -/

/-- V51: an unmapped read keeps DONE. -/
theorem test_unmapped_read :
    after (exec (.rd 0x3FF#10) { State.reset with status := 0x01#8 }) (fun t =>
      t.status == 0x13#8 && t.observed == [0x00#8]) = true := by decide

/-- V51: an unmapped write. -/
theorem test_unmapped_write :
    after (exec (.wr 0x10A#10 0x55#8) State.reset) (fun t => t.status == 0x12#8) = true := by decide

/-- V52: ROUND keeps bits 5:0. -/
theorem test_round_port_mask :
    after (exec (.wr 0x112#10 0xC5#8) State.reset) (fun t => t.round == 5#6) = true := by decide

/-- P4: the byte 0x18 is RESERVED_BITS, not ENCRYPT. -/
theorem test_reserved_command : after (exec (.wr 0x110#10 0x18#8) State.reset) (fun t =>
    t.status == 0x0A#8 && t.cmd == 0x18#8) = true := by decide

/-- P4: the byte 0x0B is ILLEGAL_OP. -/
theorem test_illegal_command : after (exec (.wr 0x110#10 0x0B#8) State.reset) (fun t =>
    t.status == 0x06#8 && t.cmd == 0x0B#8) = true := by decide

/-- V53: plane 7 = 0xFFFF0000 is read as 00 00 FF FF. -/
theorem test_plane_port_bytes :
    ([0x21C#10, 0x21E#10].map (State.peek (withPlanes (fun i => if i = 7 then 0xFFFF0000#32 else 0#32) (ready 0 0)))) =
      [some 0x00#8, some 0xFF#8] := by
  decide +kernel

/-- R28: a host read of an unwritten byte names its address. -/
theorem test_read_unwritten : faultOf (exec (.rd 0x005#10) State.reset) = some (.uninitReadAt 0x005#10) := by decide

/-- R59: an RD word with data is no transaction. -/
theorem test_step_refuses_non_transaction :
    refusalOf (step (State.reset.withFetchWord 24 0x11101)) = some (.notATransaction [0x01#8, 0x11#8, 0x01#8]) := by decide

/-- R105: an illegal command byte is an error of the unit, not a refusal. -/
theorem test_step_illegal_command_byte :
    after (step (State.reset.withFetchWord 8 0x0B)) (fun t => t.status == 0x06#8) = true := by decide

/-! ### States that meet the statements' hypotheses -/

theorem ready_batchWritten (k : Key) (r : Round) : (ready k r).batchWritten = true := by
  simp [State.batchWritten, ready]

theorem ready_written (k : Key) (r : Round) :
    (ready k r).planeWritten = true ∧ (ready k r).keyWritten = true ∧ (ready k r).roundKeyWritten = true := by
  have hp : (Vector.replicate 256 true).toList.all id = true := by decide +kernel
  exact ⟨hp, rfl, rfl⟩

/-- In a state with everything written and ROUND = 31 the commands complete. -/
theorem ready_runs (c : Command) : ∃ t, exec c.instr (ready 0 31) = .next t := by
  have hb := ready_batchWritten 0 31
  obtain ⟨hp, hk, hr⟩ := ready_written 0 31
  refine ⟨_, (exec_command c _).trans (runCommand_completes ?_ ?_)⟩
  · cases c <;> rfl
  · cases c <;> simp only [State.operandsWritten, hb, hp, hk, hr, Bool.and_self]

/-- A state with `rst` next on the port, and one with a stalled command. -/
theorem witness_ResetClearsControlRegistersAndMarks : (loaded [.rst, .rst]).inputs = .rst :: [.rst] := rfl
theorem witness_ResetAbandonsStalledCommand : (loaded [.rstInCommand 0x08#8]).inputs = .rstInCommand 0x08#8 :: [] := rfl
theorem witness_IdleUnitHoldsEveryRegister : State.reset.inputs = [] := rfl

theorem witness_StepRunsTheDecodedInstruction :
    (loaded [.word [0x08#8, 0x10#8, 0x05#8]]).inputs = .word [0x08#8, 0x10#8, 0x05#8] :: [] ∧
      decode [0x08#8, 0x10#8, 0x05#8] = .ok (.wr 0x110#10 0x08#8) ∧
      decodeTableWord 24 0x51008 = some (.wr 0x110#10 0x08#8) := by decide

theorem witness_StepRefusesOnlyWordsThatAreNoTransaction :
    (loaded [.word [0x01#8, 0x11#8, 0x01#8]]).inputs = .word [0x01#8, 0x11#8, 0x01#8] :: [] ∧
      [0x01#8, 0x11#8, 0x01#8].length ≠ 1 ∧ WellFormed.word [0x01#8, 0x11#8, 0x01#8] = false ∧
      (loaded [.word [0x0F#8]]).inputs = .word [0x0F#8] :: [] ∧
      refusalOf (step (loaded [.word [0x01#8, 0x11#8, 0x01#8]])) = some (.notATransaction [0x01#8, 0x11#8, 0x01#8]) := by
  decide

theorem witness_EncodeOfDecodeIsTheWord : decode [0xFF#8, 0xFF#8, 0x07#8] = .ok (.wr 0x3FF#10 0xFF#8) := by decide

theorem witness_CommandBytesAreLegalIllegalOrReserved :
    (0x08#8).toNat ≤ 0x08 ∧ (0x09 ≤ (0x09#8).toNat ∧ (0x0F#8).toNat ≤ 0x0F) ∧ 0x10 ≤ (0x10#8).toNat := by decide

/-- One address for each clause, at the ends of the ranges; the marks are those of `ready` and of reset. -/
theorem witness_ReadReturnsTheMappedByte :
    ((0x0FF#10).toNat = (255 : Fin 256).val ∧ State.reset.readBatch 255 = none) ∧
      ((0x109#10).toNat = 0x100 + (9 : Fin 10).val ∧ (ready 0 0).keyMark[(9 : Fin 10)] = true ∧
        State.reset.keyMark[(9 : Fin 10)] = false) ∧
      ((0x2FF#10).toNat = 0x200 + 4 * (63 : Fin 64).val + (3 : Fin 4).val ∧
        (ready 0 0).planeMark[planeByteIndex 63 3] = true ∧ State.reset.planeMark[planeByteIndex 63 3] = false) := by
  decide +kernel

theorem witness_read_batch_written : (0x0FF#10).toNat = (255 : Fin 256).val ∧ (ready 0 0).readBatch 255 = some 0x00#8 :=
  ⟨by decide, by simp [State.readBatch, ready]⟩

/-- The ends of the three reserved ranges (R40), and the mapped addresses beside them, are on the right side. -/
theorem witness_reservedAddress :
    reservedAddress 0x10A#10 ∧ reservedAddress 0x10F#10 ∧ reservedAddress 0x113#10 ∧ reservedAddress 0x1FF#10 ∧
      reservedAddress 0x300#10 ∧ reservedAddress 0x3FF#10 ∧ ¬ reservedAddress 0x109#10 ∧ ¬ reservedAddress 0x110#10 ∧
      ¬ reservedAddress 0x112#10 ∧ ¬ reservedAddress 0x200#10 ∧ ¬ reservedAddress 0x2FF#10 := by
  refine ⟨?_, ?_, ?_, ?_, ?_, ?_, ?_, ?_, ?_, ?_, ?_⟩ <;> unfold reservedAddress <;> decide

theorem witness_WriteToBatchChangesOneByte : (0x000#10).toNat = (0 : Fin 256).val ∧ (1 : Fin 256) ≠ 0 := by decide
theorem witness_WriteToKeyChangesOneByte : (0x100#10).toNat = 0x100 + (0 : Fin 10).val ∧ (1 : Fin 10) ≠ 0 := by decide
theorem witness_WriteToPlaneChangesOneByte :
    (0x200#10).toNat = 0x200 + 4 * (0 : Fin 64).val + (0 : Fin 4).val ∧ (1 : Fin 64) ≠ 0 ∧
      ((0 : Fin 64), (1 : Fin 4)) ≠ (0, 0) := by decide
theorem witness_ReadAfterWriteReturnsTheByte :
    (0x109#10).toNat < 0x10A ∧ 0x200 ≤ (0x200#10).toNat ∧ (0x2FF#10).toNat < 0x300 := by decide

theorem witness_RejectedCommandBytesAreRecorded :
    0x10 ≤ (0xFF#8).toNat ∧ 0x09 ≤ (0x09#8).toNat ∧ (0x0F#8).toNat ≤ 0x0F := by decide

/-- Round numbers at the ends of both ranges, a completed KSADV and ROUND in range, and a completed command that reads no
ROUND. -/
theorem witness_RoundRangeIsRaisedByKsadvAndRoundOnly :
    State.reset.round.toNat = 0 ∧ 32 ≤ (ready 0 32).round.toNat ∧ 1 ≤ (ready 0 1).round.toNat ∧
      (ready 0 31).round.toNat ≤ 31 ∧ (∃ t, exec .ksadv (ready 0 31) = .next t) ∧ (∃ t, exec .round (ready 0 31) = .next t) ∧
      Command.encrypt ≠ .ksadv ∧ Command.encrypt ≠ .round ∧ ∃ t, exec Command.encrypt.instr (ready 0 31) = .next t :=
  ⟨by decide, by decide, by decide, by decide, ready_runs .ksadv, ready_runs .round, by decide, by decide,
    ready_runs .encrypt⟩

theorem witness_CommandReadingUnwrittenByteFaults :
    State.reset.roundInRange .sbox = true ∧ State.reset.operandsWritten .sbox = false := by decide +kernel

theorem witness_NoInstructionClearsAWrittenMark :
    (∃ t, exec (.wr 0x101#10 0x01#8) (ready 0 0) = .next t) ∧ ((ready 0 0).peek 0x100#10).isSome = true :=
  ⟨⟨_, rfl⟩, by decide +kernel⟩

/-- A command that errs, and one that completes. -/
theorem witness_ErrorsArePrecise :
    (∃ t, exec (.wr 0x110#10 0x09#8) State.reset = .next t ∧ statusErr t.status = true) ∧
      ∃ t, exec (.wr 0x110#10 0x00#8) State.reset = .next t ∧ statusErr t.status = false :=
  ⟨⟨_, rfl, by decide⟩, ⟨_, rfl, by decide⟩⟩

theorem witness_CommandWriteLeavesItsByteAndOneOfFourStatuses :
    ∃ t, exec (.wr 0x110#10 0x07#8) State.reset = .next t := ⟨_, rfl⟩

/-- For EncodePlacesEveryBit, LaneIsBlockAfterEncode, and the first half of EncodeAndDecodeAreInverse. -/
theorem witness_batch_written_and_unwritten :
    (ready 0 0).batchWritten = true ∧ State.reset.batchWritten = false :=
  ⟨ready_batchWritten 0 0, by decide +kernel⟩

/-- For DecodePlacesEveryBit, EncodeAndDecodeAreInverse, SboxSubstitutesEveryNibble, SboxPlanesAreTheAlgebraicNormalForm,
SboxPlanesAreTheNetlist, PlayerMovesEveryPlane and PermutationHasOrderThreeAndIsTheReferencePermutation. -/
theorem witness_planes_written_and_unwritten :
    (ready 0 0).planeWritten = true ∧ State.reset.planeWritten = false := ⟨(ready_written 0 0).1, by decide +kernel⟩

/-- For KeymixXorsTheReplicatedKeyBits, KeymixTwiceRestoresThePlanes, KeymixIsTheConditionalComplement and
RoundEngineWorksLaneByLane: `KEY[0]` and `KEY[1]` need not be written; and a state that lacks only the key. -/
theorem witness_keymix_operands :
    let s := { ready 0 0 with keyMark := (State.reset.keyMark.map fun _ => true).set 0 false }
    (s.planeWritten = true ∧ s.roundKeyWritten = true ∧ s.keyWritten = false) ∧
      ({ ready 0 0 with keyMark := State.reset.keyMark }).roundKeyWritten = false := by decide +kernel

theorem witness_KeyScheduleBitByBit : 1 ≤ (1#6).toNat ∧ (31#6).toNat ≤ 31 ∧ 79 < 80 := by decide
theorem witness_KeyScheduleByteFormAgrees : 1 ≤ (31#6).toNat ∧ (31#6).toNat ≤ 31 := by decide

/-- For KsadvAdvancesTheKey, RoundIsOneReferenceRoundInEveryLane and RoundIsItsFourSubStepsAndTheCounter, at both ends of the
range, and their stops. -/
theorem witness_round_and_key :
    (1 ≤ (ready 0 1).round.toNat ∧ (ready 0 31).round.toNat ≤ 31) ∧
      ((ready 0 31).planeWritten = true ∧ (ready 0 31).keyWritten = true) ∧
      (State.reset.round.toNat = 0 ∧ 32 ≤ (ready 0 32).round.toNat) ∧
      (({ State.reset with round := 1#6 }).keyWritten = false ∧ ({ State.reset with round := 1#6 }).planeWritten = false) :=
  ⟨⟨by decide, by decide⟩, ⟨(ready_written 0 31).1, (ready_written 0 31).2.1⟩, by decide, by decide +kernel⟩

theorem witness_KeyAndDataPathMeetOnlyInKeyMixing :
    (∃ t, exec .keymix (ready 0 31) = .next t) ∧ (∃ t, exec .ksadv (ready 0 31) = .next t) ∧
      ∃ t, exec .player (ready 0 31) = .next t :=
  ⟨ready_runs .keymix, ready_runs .ksadv, ready_runs .player⟩

/-- For EncryptIsItsPseudocode, EncryptMeetsTheReferenceCipher, EncryptEndState and SteppedEncryptionIsEncrypt, and the stop
of the first. -/
theorem witness_encrypt_operands :
    ((ready 0 0).batchWritten = true ∧ (ready 0 0).keyWritten = true ∧ (ready 0 0).phase = .idle) ∧
      State.reset.batchWritten = false ∧ State.reset.keyWritten = false :=
  ⟨⟨ready_batchWritten 0 0, (ready_written 0 0).2.1, rfl⟩, by decide +kernel, by decide +kernel⟩

theorem witness_EveryStepKeepsTheInvariant :
    State.reset.inv = true ∧ ∃ t, step (loaded [.word [0x00#8]]) = .next t := ⟨by decide +kernel, ⟨_, rfl⟩⟩

/-- Two states that differ in every unwritten value and in TMP. -/
theorem witness_UnwrittenValuesNeverMatter :
    Alike State.reset { State.reset with
      plane := Vector.replicate 64 0xFFFFFFFF#32, key := 0xFF#80, tmp := Vector.replicate 64 1#32 } where
  batch := rfl
  planeMark := rfl
  keyMark := rfl
  plane := fun p b => by simp [State.readPlane, State.reset]
  key := fun j => by simp [State.readKey, State.reset]
  round := rfl
  cmd := rfl
  status := rfl
  phase := rfl
  inputs := rfl
  observed := rfl

theorem witness_LatencyIsPositiveAndIndependentOfDataAndKey :
    Command.encrypt ≠ .ksadv ∧ Command.encrypt ≠ .round ∧ 0x09 ≤ (0xFF#8).toNat ∧
      (1 ≤ (ready 0 1).round.toNat ∧ (ready 0 31).round.toNat ≤ 31) ∧
      (State.reset.round.toNat = 0 ∧ 32 ≤ (ready 0 32).round.toNat) ∧
      (ready 0 5).round = (ready 0xFF#80 5).round := by decide

end Sys2Proof.Tests
end

section
/-! What a step does with a word that decodes, and what the decoder of a table word accepts. -/

namespace Sys2Proof.Machine

/-- The port gives up the word and its instruction runs on what is left (R10, R32). -/
theorem step_eq_exec_of_decode {s : State} {bytes : List Byte} {rest : List HostInput} {i : Instr}
    (hin : s.inputs = .word bytes :: rest) (hdec : decode bytes = .ok i) :
    step s = exec i { s with inputs := rest } := by
  simp only [step, hin, hdec]

theorem decodeTableWord_eq_some_iff {nbits w : Nat} {i : Instr} :
    decodeTableWord nbits w = some i ↔ decode (tableBytes nbits w) = .ok i := by
  unfold decodeTableWord
  cases decode (tableBytes nbits w) with
  | ok j => simp only [Option.some.injEq, Except.ok.injEq]
  | error e => simp only [reduceCtorEq]

@[simp] theorem withFetchWord_inputs (s : State) (nbits w : Nat) :
    (s.withFetchWord nbits w).inputs = .word (tableBytes nbits w) :: s.inputs := rfl

/-- The word of `withFetchWord` is the only change to the state, so taking it from the port gives the state back. -/
theorem withFetchWord_restore_inputs (s : State) (nbits w : Nat) :
    { s.withFetchWord nbits w with inputs := s.inputs } = s := rfl

theorem step_withFetchWord {s : State} {nbits w : Nat} {i : Instr} (h : decodeTableWord nbits w = some i) :
    step (s.withFetchWord nbits w) = exec i s := by
  rw [step_eq_exec_of_decode (withFetchWord_inputs s nbits w) (decodeTableWord_eq_some_iff.mp h),
    withFetchWord_restore_inputs]

/-- Settles O3: the first clause is the step's equation for a word that decodes, and the second is the same equation at
the word that `withFetchWord` puts on the port. -/
theorem stepRunsTheDecodedInstruction : Obligations.StepRunsTheDecodedInstruction :=
  ⟨fun _ _ _ _ => step_eq_exec_of_decode, fun _ _ _ _ => step_withFetchWord⟩

end Sys2Proof.Machine
end

section
/-! The storage as the port sees it: a read after a write at the same and at another place, what the written marks of a
whole register say, and when two words are equal by their bytes. -/

namespace Sys2Proof.Machine

theorem eq_of_byteAt_eq {w : Nat} {x y : BitVec w} (h : ∀ i, i < w → byteAt x (i / 8) = byteAt y (i / 8)) : x = y := by
  apply BitVec.eq_of_getLsbD_eq
  intro i hi
  have hbit := congrArg (fun b => b.getLsbD (i % 8)) (h i hi)
  simpa only [byteAt_getLsbD _ _ _ (Nat.mod_lt i (by decide : 0 < 8)), Nat.div_add_mod] using hbit

@[simp] theorem State.readKey_writeKey_same (s : State) (j : Fin 10) (v : Byte) :
    (s.writeKey j v).readKey j = some v := by
  simp [State.readKey, byteAt_withByteAt_same s.key j.val v (by omega)]

theorem State.readKey_writeKey_other (s : State) {i j : Fin 10} (v : Byte) (h : i ≠ j) :
    (s.writeKey j v).readKey i = s.readKey i := by
  have hne : j.val ≠ i.val := Fin.val_ne_of_ne h.symm
  simp [State.readKey, byteAt_withByteAt_other s.key j.val i.val v (by omega) hne.symm, Vector.getElem_set_ne _ _ hne]

@[simp] theorem State.readPlane_writePlane_same (s : State) (p : Fin 64) (b : Fin 4) (v : Byte) :
    (s.writePlane p b v).readPlane p b = some v := by
  simp [State.readPlane, byteAt_withByteAt_same s.plane[p.val] b.val v (by omega)]

theorem State.readPlane_writePlane_other (s : State) {p q : Fin 64} {b c : Fin 4} (v : Byte) (h : ¬ (q = p ∧ c = b)) :
    (s.writePlane p b v).readPlane q c = s.readPlane q c := by
  have hmark : (s.writePlane p b v).planeMark[planeByteIndex q c] = s.planeMark[planeByteIndex q c] :=
    Vector.getElem_set_ne (planeByteIndex p b).isLt (planeByteIndex q c).isLt fun he => h (planeByteIndex_inj (Fin.ext he.symm))
  have hbyte : byteAt (s.writePlane p b v).plane[q] c.val = byteAt s.plane[q] c.val := by
    by_cases hp : q = p
    · subst hp
      have hc : c.val ≠ b.val := Fin.val_ne_of_ne fun hc => h ⟨rfl, hc⟩
      simp [byteAt_withByteAt_other s.plane[q.val] b.val c.val v (by omega) hc]
    · simp [Vector.getElem_set_ne _ _ (Fin.val_ne_of_ne (Ne.symm hp))]
  rw [State.readPlane, State.readPlane, hmark, hbyte]

theorem State.planeWritten_iff (s : State) : s.planeWritten = true ↔ ∀ i : Fin 256, s.planeMark[i] = true := by
  simp [State.planeWritten, Fin.forall_iff]

theorem State.keyWritten_iff (s : State) : s.keyWritten = true ↔ ∀ j : Fin 10, s.keyMark[j] = true := by
  simp [State.keyWritten, Fin.forall_iff]

theorem State.roundKeyWritten_iff (s : State) :
    s.roundKeyWritten = true ↔ ∀ j : Fin 10, 2 ≤ j.val → s.keyMark[j] = true := by
  simp only [State.roundKeyWritten, List.all_eq_true, List.mem_drop_iff_getElem, Vector.length_toList,
    Vector.getElem_toList, id_eq, Fin.forall_iff]
  constructor
  · intro h j hj h2
    exact h _ ⟨j - 2, by omega, by simp; congr 1; omega⟩
  · rintro h _ ⟨i, hi, rfl⟩
    exact h (2 + i) (by omega) (Nat.le_add_right 2 i)

/-- Only at a reserved address does a read leave anything but its byte (R33, R42). -/
theorem State.noteRead_of_mapped (s : State) {a : PortAddr} (h : region a ≠ .reserved) : s.noteRead a = s := by
  unfold State.noteRead
  cases hr : region a <;> first | rfl | exact absurd hr h

end Sys2Proof.Machine
end

section
/-! The block view and the round key, bit by bit (R13, R19, R20). -/

namespace Sys2Proof.Machine

/-- Byte `q` of a block is byte `q` of its lane's eight bytes of BATCH (R13). -/
theorem blk_getLsbD (s : State) (k : Fin 32) {q t : Nat} (hq : q < 8) (ht : t < 8) :
    (s.blk k).getLsbD (8 * q + t) = (s.batchByte (8 * k.val + q)).getLsbD t := by
  unfold State.blk
  simp only [BitVec.getLsbD_append]
  interval_cases q <;> simp (disch := omega) only [if_pos, if_neg] <;> congr 1 <;> omega

theorem roundKey_getLsbD (k : Key) {i : Nat} (hi : i < 64) : (roundKey k).getLsbD i = k.getLsbD (16 + i) := by
  rw [roundKey, BitVec.getLsbD_extractLsb', decide_eq_true hi, Bool.true_and]

/-- `RK[i] = KEY[i/8 + 2][i % 8]` (R20). -/
theorem roundKey_getLsbD_eq_byteAt (k : Key) {i : Nat} (hi : i < 64) :
    (roundKey k).getLsbD i = (byteAt k (i / 8 + 2)).getLsbD (i % 8) := by
  rw [roundKey_getLsbD k hi, byteAt_getLsbD _ _ _ (Nat.mod_lt i (by decide))]
  congr 1
  omega

/-- Settles O27: bit `i` is bit `i % 8` of byte `i / 8`. -/
theorem blockBitsAreBatchBits : Obligations.BlockBitsAreBatchBits := by
  intro s k i
  have h := blk_getLsbD s k (q := i.val / 8) (t := i.val % 8) (by omega) (by omega)
  rwa [Nat.div_add_mod] at h

/-- Settles O32: the bits of a byte, and those of the round key as bits of KEY80 and of its bytes. -/
theorem roundKeyBitsAreKeyBits : Obligations.RoundKeyBitsAreKeyBits :=
  ⟨fun k j t => byteAt_getLsbD k j.val t.val t.isLt,
    fun k i => ⟨roundKey_getLsbD k i.isLt, roundKey_getLsbD_eq_byteAt k i.isLt⟩⟩

end Sys2Proof.Machine
end

section
/-! The start of a run, the stop at an unwritten operand (R28), and a host read of what the host wrote (R33, R34). -/

namespace Sys2Proof.Machine

/-- Settles O57: the reset state is one closed state, so its invariant is evaluated. -/
theorem resetMeetsTheInvariant : Obligations.ResetMeetsTheInvariant := by
  unfold Obligations.ResetMeetsTheInvariant
  decide

/-- Settles O21: the stop is that of the shared running of a command. -/
theorem commandReadingUnwrittenByteFaults : Obligations.CommandReadingUnwrittenByteFaults :=
  ⟨fun c s hr hw => (exec_command c s).trans (runCommand_uninit hr hw), fun _ => rfl⟩

/-- A read of a written byte at a mapped address returns it and leaves nothing else (R33). -/
theorem execRd_of_peek {s : State} {a : PortAddr} {v : Byte} (hm : region a ≠ .reserved) (h : s.peek a = some v) :
    execRd a s = .next (s.returnByte v) := by
  simp only [execRd, h, State.noteRead_of_mapped s hm]

/-- Settles O17: by the region the address is in. -/
theorem readAfterWriteReturnsTheByte : Obligations.ReadAfterWriteReturnsTheByte := by
  intro a v s ha
  rcases region_cases a with ⟨x, hr, _⟩ | ⟨j, hr, _⟩ | ⟨_, h⟩ | ⟨_, h⟩ | ⟨_, h⟩ | ⟨p, b, hr, _⟩ | hr
  · exact ⟨s.writeBatch x v, by simp only [exec, execWr, hr],
      execRd_of_peek (by simp [hr]) (by simp [State.peek, hr])⟩
  · exact ⟨s.writeKey j v, by simp only [exec, execWr, hr],
      execRd_of_peek (by simp [hr]) (by simp [State.peek, hr])⟩
  · omega
  · omega
  · omega
  · exact ⟨s.writePlane p b v, by simp only [exec, execWr, hr],
      execRd_of_peek (by simp [hr]) (by simp [State.peek, hr])⟩
  · rw [region_reserved_iff] at hr
    omega

end Sys2Proof.Machine
end

section
/-! Everything an instruction that goes on can have done, as one list of cases; and what the effects of the commands leave of
the marks and of the sequencer's phase. -/

namespace Sys2Proof.Machine

/-- The next states an instruction can answer from `s`. -/
inductive Transition (s : State) : State → Prop
  /-- A command completes (R102). -/
  | completed (c : Command) : Transition s (commandEffect c (s.startCommand c.byte)).complete
  /-- A write to CMD records an error (R103). -/
  | failed (v : Byte) (e : ErrorCode) : Transition s ((s.startCommand v).raiseError e)
  /-- WR at BATCH, KEY, PLANE and ROUND (R34). -/
  | batchByte (x : Fin 256) (v : Byte) : Transition s (s.writeBatch x v)
  | keyByte (j : Fin 10) (v : Byte) : Transition s (s.writeKey j v)
  | planeByte (p : Fin 64) (b : Fin 4) (v : Byte) : Transition s (s.writePlane p b v)
  | round (r : Round) : Transition s { s with round := r }
  /-- WR at STATUS (R24). -/
  | unchanged : Transition s s
  /-- WR at a reserved address (R42). -/
  | unmapped : Transition s s.recordUnmapped
  /-- RD (R33). -/
  | read (a : PortAddr) (v : Byte) : Transition s ((s.noteRead a).returnByte v)

/-- Every instruction is a command mnemonic, a WR or an RD. -/
theorem instr_cases (i : Instr) : (∃ c : Command, i = c.instr) ∨ (∃ a d, i = .wr a d) ∨ ∃ a, i = .rd a := by
  cases i with
  | nop => exact .inl ⟨.nop, rfl⟩
  | encode => exact .inl ⟨.encode, rfl⟩
  | decode => exact .inl ⟨.decode, rfl⟩
  | ksadv => exact .inl ⟨.ksadv, rfl⟩
  | keymix => exact .inl ⟨.keymix, rfl⟩
  | sbox => exact .inl ⟨.sbox, rfl⟩
  | player => exact .inl ⟨.player, rfl⟩
  | round => exact .inl ⟨.round, rfl⟩
  | encrypt => exact .inl ⟨.encrypt, rfl⟩
  | wr a d => exact .inr (.inl ⟨a, d, rfl⟩)
  | rd a => exact .inr (.inr ⟨a, rfl⟩)

/-- Everything a write to CMD that goes on can have done: the completion of the byte's command, or an error of CMD's own, which
is not UNMAPPED (R102, R103). -/
theorem writeCommand_next {v : Byte} {s t : State} (h : writeCommand v s = .next t) :
    (∃ c : Command, v = c.byte ∧ t = (commandEffect c (s.startCommand v)).complete) ∨
      ∃ e : ErrorCode, e ≠ .unmapped ∧ t = (s.startCommand v).raiseError e := by
  cases hd : decodeCommand v with
  | ok c =>
    obtain rfl := decodeCommand_ok hd
    rw [writeCommand_byte] at h
    rcases exec_command_next h with ⟨_, _, rfl⟩ | ⟨_, rfl⟩
    · exact .inl ⟨c, rfl, rfl⟩
    · exact .inr ⟨_, by decide, rfl⟩
  | error e =>
    simp only [writeCommand, hd, Host.Outcome.next.injEq] at h
    refine .inr ⟨commandError v, ?_, h.symm⟩
    rcases decodeCommand_error hd with ⟨_, he⟩ | ⟨_, he⟩ <;> simp [he]

theorem transition_of_writeCommand {v : Byte} {s t : State} (h : writeCommand v s = .next t) : Transition s t := by
  rcases writeCommand_next h with ⟨c, rfl, rfl⟩ | ⟨e, _, rfl⟩
  · exact .completed c
  · exact .failed v e

theorem transition_of_exec {i : Instr} {s t : State} (h : exec i s = .next t) : Transition s t := by
  rcases instr_cases i with ⟨c, rfl⟩ | ⟨a, d, rfl⟩ | ⟨a, rfl⟩
  · exact transition_of_writeCommand (writeCommand_byte c s ▸ h)
  · simp only [exec] at h
    rcases execWr_cases a d s with ⟨x, _, hx⟩ | ⟨j, _, hx⟩ | ⟨_, hx⟩ | ⟨_, hx⟩ | ⟨_, u, hx, hu⟩ |
      ⟨p, b, _, hx⟩ | ⟨_, hx⟩ <;> rw [hx] at h
    · exact Host.Outcome.next.inj h ▸ .batchByte x d
    · exact Host.Outcome.next.inj h ▸ .keyByte j d
    · exact transition_of_writeCommand h
    · exact Host.Outcome.next.inj h ▸ .unchanged
    · exact Host.Outcome.next.inj h ▸ hu ▸ .round _
    · exact Host.Outcome.next.inj h ▸ .planeByte p b d
    · exact Host.Outcome.next.inj h ▸ .unmapped
  · rcases execRd_cases a s with ⟨v, _, hx⟩ | ⟨_, hx⟩ <;> rw [exec, hx] at h <;> cases h
    exact .read a v

/-- `t` has the marks of `s` but where a register has been written whole: what a command's effect does to the marks (R28). -/
structure KeepsOrFills (s t : State) : Prop where
  batch : t.batch = s.batch ∨ ∃ f, t.batch = Memory.full 256 f
  planeMark : t.planeMark = s.planeMark ∨ t.planeMark = Vector.replicate 256 true
  keyMark : t.keyMark = s.keyMark ∨ t.keyMark = Vector.replicate 10 true

theorem KeepsOrFills.refl (s : State) : KeepsOrFills s s := ⟨.inl rfl, .inl rfl, .inl rfl⟩

theorem KeepsOrFills.trans {s t u : State} (h : KeepsOrFills s t) (h' : KeepsOrFills t u) : KeepsOrFills s u where
  batch := h'.batch.elim (fun e => e ▸ h.batch) .inr
  planeMark := h'.planeMark.elim (fun e => e ▸ h.planeMark) .inr
  keyMark := h'.keyMark.elim (fun e => e ▸ h.keyMark) .inr

theorem sequencerStep_keepsOrFills (s : State) : KeepsOrFills s (sequencerStep s) := by
  unfold sequencerStep
  split
  · exact .refl s
  · exact ⟨.inl rfl, .inr rfl, .inl rfl⟩
  · exact ⟨.inl rfl, .inr rfl, .inl rfl⟩
  · exact ⟨.inl rfl, .inr rfl, .inl rfl⟩
  · rw [playerEffect_eq]
    exact ⟨.inl rfl, .inr rfl, .inl rfl⟩
  · exact ⟨.inl rfl, .inl rfl, .inr rfl⟩
  · exact ⟨.inl rfl, .inr rfl, .inl rfl⟩
  · exact ⟨.inr ⟨_, rfl⟩, .inl rfl, .inl rfl⟩

theorem runSequencer_keepsOrFills (n : Nat) (s : State) : KeepsOrFills s (runSequencer n s) := by
  induction n generalizing s with
  | zero => exact .refl s
  | succ n ih => exact (sequencerStep_keepsOrFills s).trans (ih _)

theorem commandEffect_keepsOrFills (c : Command) (s : State) : KeepsOrFills s (commandEffect c s) := by
  cases c with
  | nop => exact .refl s
  | encode => exact ⟨.inl rfl, .inr rfl, .inl rfl⟩
  | decode => exact ⟨.inr ⟨_, rfl⟩, .inl rfl, .inl rfl⟩
  | ksadv => exact ⟨.inl rfl, .inl rfl, .inr rfl⟩
  | keymix => exact ⟨.inl rfl, .inr rfl, .inl rfl⟩
  | sbox => exact ⟨.inl rfl, .inr rfl, .inl rfl⟩
  | player =>
    rw [commandEffect, playerEffect_eq]
    exact ⟨.inl rfl, .inr rfl, .inl rfl⟩
  | round =>
    simp only [commandEffect, roundEffect_eq]
    exact ⟨.inl rfl, .inr rfl, .inr rfl⟩
  | encrypt =>
    have h := runSequencer_keepsOrFills encryptPhases { s with phase := .enc }
    exact ⟨h.batch, h.planeMark, h.keyMark⟩

/-- The phase that follows each phase of the sequencer (R27). -/
def nextPhase : Phase → Phase
  | .idle => .idle
  | .enc => .rnd 1#6 .keyMix
  | .rnd r .keyMix => .rnd r .substitute
  | .rnd r .substitute => .rnd r .permute
  | .rnd r .permute => .rnd r .keyScheduleAdvance
  | .rnd r .keyScheduleAdvance => phaseAfterRound r
  | .whiten => .dec
  | .dec => .idle

theorem sequencerStep_phase (s : State) : (sequencerStep s).phase = nextPhase s.phase := by
  unfold sequencerStep
  split <;> simp_all [nextPhase]

theorem runSequencer_phase (n : Nat) (s : State) : (runSequencer n s).phase = nextPhase^[n] s.phase := by
  induction n generalizing s with
  | zero => rfl
  | succ n ih => rw [runSequencer, ih, sequencerStep_phase, Function.iterate_succ_apply]

/-- ENCRYPT ends with the sequencer idle: the 127 phases lead from ENC through the 31 rounds to the end of DEC (R27). -/
theorem encryptEffect_phase (s : State) : (encryptEffect s).phase = .idle := by
  have h : nextPhase^[encryptPhases] .enc = .idle := by decide +kernel
  rw [encryptEffect, runSequencer_phase, h]

/-- Between commands the sequencer stays idle (R115). -/
theorem commandEffect_phase_idle (c : Command) {s : State} (h : s.phase = .idle) : (commandEffect c s).phase = .idle := by
  cases c with
  | encrypt => exact encryptEffect_phase s
  | nop => exact h
  | encode => exact h
  | decode => exact h
  | ksadv => exact h
  | keymix => exact h
  | sbox => exact h
  | player => rwa [commandEffect, playerEffect_eq]
  | round => simpa only [commandEffect, roundEffect_eq] using h

/-- Settles O25: the byte either completes its command or records one of CMD's three errors. -/
theorem commandWriteLeavesItsByteAndOneOfFourStatuses :
    Obligations.CommandWriteLeavesItsByteAndOneOfFourStatuses := by
  intro v s t h
  have hw : writeCommand v s = .next t := h
  rcases writeCommand_next hw with ⟨c, rfl, rfl⟩ | ⟨e, he, rfl⟩
  · exact ⟨(commandEffect_cmd_status c _).1, .inl (completed_status c s _)⟩
  · refine ⟨rfl, ?_⟩
    cases e with
    | illegalOp => exact .inr (.inl rfl)
    | reservedBits => exact .inr (.inr (.inl rfl))
    | roundRange => exact .inr (.inr (.inr rfl))
    | unmapped => exact absurd rfl he

end Sys2Proof.Machine
end

section
/-! What every instruction keeps: the written marks (R28), and the invariant of the machine (R24, R36, R115). -/

namespace Sys2Proof.Machine

/-- Every written mark of `s` is set in `t` (R28). -/
structure MarksKept (s t : State) : Prop where
  batch : ∀ a : Fin 256, (s.readBatch a).isSome = true → (t.readBatch a).isSome = true
  planeMark : ∀ i : Fin 256, s.planeMark[i] = true → t.planeMark[i] = true
  keyMark : ∀ j : Fin 10, s.keyMark[j] = true → t.keyMark[j] = true

theorem State.readKey_isSome (s : State) (j : Fin 10) : (s.readKey j).isSome = s.keyMark[j] := by
  unfold State.readKey
  cases s.keyMark[j] <;> rfl

theorem State.readPlane_isSome (s : State) (p : Fin 64) (b : Fin 4) :
    (s.readPlane p b).isSome = s.planeMark[planeByteIndex p b] := by
  unfold State.readPlane
  cases s.planeMark[planeByteIndex p b] <;> rfl

/-- What is readable stays readable where the marks are kept: the control registers and the reserved addresses always are. -/
theorem MarksKept.peek_isSome {s t : State} (h : MarksKept s t) (a : PortAddr) (hs : (s.peek a).isSome = true) :
    (t.peek a).isSome = true := by
  unfold State.peek at hs ⊢
  cases hr : region a with
  | batch x => exact h.batch x (by simpa only [hr] using hs)
  | key j =>
    simp only [hr, State.readKey_isSome] at hs ⊢
    exact h.keyMark j hs
  | plane p b =>
    simp only [hr, State.readPlane_isSome] at hs ⊢
    exact h.planeMark _ hs
  | cmd => rfl
  | status => rfl
  | round => rfl
  | reserved => rfl

/-- A write of one mark clears none. -/
theorem getElem_set_true {n : Nat} (w : Vector Bool n) (i j : Fin n) (h : w[j] = true) : (w.set i.val true)[j] = true := by
  by_cases hij : i.val = j.val
  · simp [hij]
  · simpa [Vector.getElem_set_ne _ _ hij] using h

theorem KeepsOrFills.marksKept {s t : State} (h : KeepsOrFills s t) : MarksKept s t where
  batch a ha := by
    rcases h.batch with he | ⟨f, he⟩
    · simpa only [State.readBatch, he] using ha
    · simp [State.readBatch, he]
  planeMark i hi := by
    rcases h.planeMark with he | he
    · rwa [he]
    · simp [he]
  keyMark j hj := by
    rcases h.keyMark with he | he
    · rwa [he]
    · simp [he]

theorem marksKept_of_eq {s t : State} (hb : t.batch = s.batch) (hp : t.planeMark = s.planeMark)
    (hk : t.keyMark = s.keyMark) : MarksKept s t :=
  KeepsOrFills.marksKept ⟨.inl hb, .inl hp, .inl hk⟩

theorem marksKept_writeBatch (s : State) (x : Fin 256) (v : Byte) : MarksKept s (s.writeBatch x v) where
  batch a ha := by
    by_cases h : a = x
    · simp [h]
    · rwa [State.readBatch_writeBatch_other s x a v h]
  planeMark _ hi := hi
  keyMark _ hj := hj

theorem marksKept_writeKey (s : State) (j : Fin 10) (v : Byte) : MarksKept s (s.writeKey j v) :=
  ⟨fun _ ha => ha, fun _ hi => hi, getElem_set_true s.keyMark j⟩

theorem marksKept_writePlane (s : State) (p : Fin 64) (b : Fin 4) (v : Byte) : MarksKept s (s.writePlane p b v) :=
  ⟨fun _ ha => ha, getElem_set_true s.planeMark (planeByteIndex p b), fun _ hj => hj⟩

/-- A read leaves all but STATUS and what the host has observed (R33, R42). -/
theorem noteRead_eq (s : State) (a : PortAddr) : s.noteRead a = s ∨ s.noteRead a = s.recordUnmapped := by
  by_cases h : region a = .reserved
  · exact .inr (by simp only [State.noteRead, h])
  · exact .inl (s.noteRead_of_mapped h)

theorem Transition.marksKept {s t : State} (h : Transition s t) : MarksKept s t := by
  cases h with
  | completed c =>
    have h := (commandEffect_keepsOrFills c (s.startCommand c.byte)).marksKept
    exact ⟨h.batch, h.planeMark, h.keyMark⟩
  | batchByte x v => exact marksKept_writeBatch s x v
  | keyByte j v => exact marksKept_writeKey s j v
  | planeByte p b v => exact marksKept_writePlane s p b v
  | read a v => rcases noteRead_eq s a with h | h <;> rw [h] <;> exact marksKept_of_eq rfl rfl rfl
  | failed v e => exact marksKept_of_eq rfl rfl rfl
  | round r => exact marksKept_of_eq rfl rfl rfl
  | unchanged => exact marksKept_of_eq rfl rfl rfl
  | unmapped => exact marksKept_of_eq rfl rfl rfl

/-- Settles O23: each of the things an instruction can do keeps the marks. -/
theorem noInstructionClearsAWrittenMark : Obligations.NoInstructionClearsAWrittenMark :=
  fun _ _ _ h => (transition_of_exec h).marksKept.peek_isSome

/-- The invariant, part by part. -/
theorem State.inv_iff (s : State) :
    s.inv = true ↔ s.batchWf = true ∧ statusLegal s.status = true ∧ s.phase = .idle := by
  simp only [State.inv, Bool.and_eq_true, beq_iff_eq, and_assoc]

theorem State.batchWf_iff (s : State) :
    s.batchWf = true ↔ s.batch.wf = true ∧ ∀ c ∈ s.batch, c.1 < 256 := by
  simp only [State.batchWf, Bool.and_eq_true, List.all_eq_true, decide_eq_true_eq]

theorem State.batchWf_writeBatch {s : State} (x : Fin 256) (v : Byte) (h : s.batchWf = true) :
    (s.writeBatch x v).batchWf = true := by
  obtain ⟨hwf, hlt⟩ := s.batchWf_iff.mp h
  refine (State.batchWf_iff _).mpr ⟨Memory.write_wf _ _ _ hwf, fun c hc => ?_⟩
  rcases Memory.mem_write _ _ _ _ hc with rfl | hc
  · exact x.isLt
  · exact hlt c hc

theorem KeepsOrFills.batchWf {s t : State} (h : KeepsOrFills s t) (hs : s.batchWf = true) : t.batchWf = true := by
  rcases h.batch with he | ⟨f, he⟩
  · simpa only [State.batchWf, he] using hs
  · rw [State.batchWf_iff, he]
    exact ⟨Memory.full_wf 256 f, fun c hc => Memory.mem_full 256 f c hc⟩

/-- STATUS after an unmapped access, bit by bit: the reserved bits, code 4, ERR, and DONE as before (R105). -/
theorem statusWithUnmapped_getLsbD (st : Byte) (i : Nat) :
    (statusWithUnmapped st).getLsbD i =
      if i < 1 then st.getLsbD i else if i < 5 then decide (i = 1 ∨ i = 4) else decide (i < 8) && st.getLsbD i := by
  show (statusReserved st ++ 4#3 ++ 1#1 ++ st.extractLsb' 0 1 : BitVec (3 + 3 + 1 + 1)).getLsbD i = _
  simp only [BitVec.getLsbD_append, statusReserved, BitVec.getLsbD_extractLsb']
  rcases Nat.lt_or_ge i 8 with h | h
  · interval_cases i <;> simp
  · simp (disch := omega) only [if_neg]
    simp [BitVec.getLsbD_of_ge st i h]
    omega

theorem statusErr_statusWithUnmapped (st : Byte) : statusErr (statusWithUnmapped st) = true := by
  simp [statusErr, statusWithUnmapped_getLsbD]

theorem statusDone_statusWithUnmapped (st : Byte) : statusDone (statusWithUnmapped st) = statusDone st := by
  rw [statusDone, statusWithUnmapped_getLsbD, if_pos (by decide), statusDone]

theorem statusErrCode_statusWithUnmapped (st : Byte) : statusErrCode (statusWithUnmapped st) = 4#3 := by
  apply BitVec.eq_of_getLsbD_eq
  intro i hi
  simp only [statusErrCode, BitVec.getLsbD_extractLsb', statusWithUnmapped_getLsbD]
  interval_cases i <;> simp

theorem statusReserved_statusWithUnmapped (st : Byte) :
    statusReserved (statusWithUnmapped st) = statusReserved st := by
  apply BitVec.eq_of_getLsbD_eq
  intro i hi
  simp only [statusReserved, BitVec.getLsbD_extractLsb', statusWithUnmapped_getLsbD]
  simp [hi, show 5 + i < 8 by omega]

/-- An unmapped access keeps STATUS legal: ERR with code 4 may stand beside DONE (R105). -/
theorem statusLegal_statusWithUnmapped {st : Byte} (h : statusLegal st = true) :
    statusLegal (statusWithUnmapped st) = true := by
  obtain ⟨hres, _⟩ : statusReserved st = 0#3 ∧ _ := by
    simpa only [statusLegal, Bool.and_eq_true, beq_iff_eq] using h
  simp [statusLegal, statusReserved_statusWithUnmapped, statusErr_statusWithUnmapped,
    statusErrCode_statusWithUnmapped, hres]

theorem statusLegal_statusOfError (e : ErrorCode) : statusLegal (statusOfError e) = true := by
  cases e <;> decide

/-- What an instruction can do keeps the invariant. -/
theorem Transition.inv {s t : State} (h : Transition s t) (hs : s.inv = true) : t.inv = true := by
  obtain ⟨hwf, hst, hph⟩ := s.inv_iff.mp hs
  rw [State.inv_iff]
  cases h with
  | completed c =>
    refine ⟨(commandEffect_keepsOrFills c (s.startCommand c.byte)).batchWf hwf, ?_,
      commandEffect_phase_idle c (s := s.startCommand c.byte) hph⟩
    rw [completed_status]
    rfl
  | failed v e => exact ⟨hwf, statusLegal_statusOfError e, hph⟩
  | batchByte x v => exact ⟨State.batchWf_writeBatch x v hwf, hst, hph⟩
  | keyByte j v => exact ⟨hwf, hst, hph⟩
  | planeByte p b v => exact ⟨hwf, hst, hph⟩
  | round r => exact ⟨hwf, hst, hph⟩
  | unchanged => exact ⟨hwf, hst, hph⟩
  | unmapped => exact ⟨hwf, statusLegal_statusWithUnmapped hst, hph⟩
  | read a v =>
    rcases noteRead_eq s a with h | h <;> rw [h]
    · exact ⟨hwf, hst, hph⟩
    · exact ⟨hwf, statusLegal_statusWithUnmapped hst, hph⟩

/-- Everything a step that goes on can have done, with the port's next item taken: nothing, a reset, or what an instruction
can do (R32, R114, R115, R116). -/
theorem step_next {s t : State} (h : step s = .next t) :
    t = s ∨ ∃ rest, t = State.takeReset { s with inputs := rest } ∨ Transition { s with inputs := rest } t := by
  unfold step at h
  split at h
  · exact .inl (Host.Outcome.next.inj h).symm
  · next rest _ => exact .inr ⟨rest, .inl (Host.Outcome.next.inj h).symm⟩
  · next rest _ => exact .inr ⟨rest, .inl (Host.Outcome.next.inj h).symm⟩
  · next bytes rest _ =>
    refine .inr ⟨rest, .inr ?_⟩
    split at h
    · exact transition_of_exec h
    · next e _ =>
      cases e with
      | reservedBits v => exact transition_of_writeCommand h
      | illegalOp v => exact transition_of_writeCommand h
      | highBits w => simp [rejectWord] at h
      | readWithData w => simp [rejectWord] at h
      | noSuchLength n => simp [rejectWord] at h

/-- Settles O58: a reset makes the invariant and everything else a step can do keeps it; that the port's queue moves on is no
part of it. -/
theorem everyStepKeepsTheInvariant : Obligations.EveryStepKeepsTheInvariant := by
  intro s t hs h
  rcases step_next h with rfl | ⟨rest, rfl | htr⟩
  · exact hs
  · exact resetMeetsTheInvariant
  · exact htr.inv hs

end Sys2Proof.Machine
end

section
/-! Noninterference: two states that are alike answer alike (R26, R28). Each update of the state keeps likeness; where the
operands of a command are written the two states hold the same operands, so its effect keeps it too. -/

namespace Sys2Proof.Machine

namespace Alike

variable {s t : State}

theorem refl (s : State) : Alike s s := ⟨rfl, rfl, rfl, fun _ _ => rfl, fun _ => rfl, rfl, rfl, rfl, rfl, rfl, rfl⟩

theorem withInputs (h : Alike s t) (l : List HostInput) : Alike { s with inputs := l } { t with inputs := l } :=
  { h with inputs := rfl }

theorem withRound (h : Alike s t) (r : Round) : Alike { s with round := r } { t with round := r } :=
  { h with round := rfl }

theorem withPhase (h : Alike s t) (p : Phase) : Alike { s with phase := p } { t with phase := p } :=
  { h with phase := rfl }

theorem withTmp (h : Alike s t) (p q : Planes) : Alike { s with tmp := p } { t with tmp := q } :=
  { h with }

theorem startCommand (h : Alike s t) (v : Byte) : Alike (s.startCommand v) (t.startCommand v) :=
  { h with cmd := rfl, status := rfl }

theorem raiseError (h : Alike s t) (e : ErrorCode) : Alike (s.raiseError e) (t.raiseError e) :=
  { h with status := rfl }

theorem complete (h : Alike s t) : Alike s.complete t.complete :=
  { h with status := congrArg statusWithDone h.status }

theorem recordUnmapped (h : Alike s t) : Alike s.recordUnmapped t.recordUnmapped :=
  { h with status := congrArg statusWithUnmapped h.status }

theorem returnByte (h : Alike s t) (v : Byte) : Alike (s.returnByte v) (t.returnByte v) :=
  { h with observed := congrArg (· ++ [v]) h.observed }

theorem noteRead (h : Alike s t) (a : PortAddr) : Alike (s.noteRead a) (t.noteRead a) := by
  by_cases hr : region a = .reserved
  · simpa only [State.noteRead, hr] using h.recordUnmapped
  · rwa [State.noteRead_of_mapped s hr, State.noteRead_of_mapped t hr]

theorem takeReset (h : Alike s t) : Alike s.takeReset t.takeReset :=
  { refl State.reset with inputs := h.inputs, observed := h.observed }

theorem setBatch (h : Alike s t) (f : Nat → Byte) : Alike (s.setBatch f) (t.setBatch f) :=
  { h with batch := rfl }

theorem setPlanes (h : Alike s t) (p : Planes) : Alike (s.setPlanes p) (t.setPlanes p) :=
  { h with planeMark := rfl, plane := fun _ _ => rfl }

theorem setKey (h : Alike s t) (k : Key) : Alike (s.setKey k) (t.setKey k) :=
  { h with keyMark := rfl, key := fun _ => rfl }

theorem writeBatch (h : Alike s t) (x : Fin 256) (v : Byte) : Alike (s.writeBatch x v) (t.writeBatch x v) :=
  { h with batch := congrArg (Memory.write · x.val v) h.batch }

theorem writeKey (h : Alike s t) (j : Fin 10) (v : Byte) : Alike (s.writeKey j v) (t.writeKey j v) :=
  { h with
    keyMark := congrArg (fun w => w.set j.val true) h.keyMark
    key := fun i => by
      by_cases hi : i = j
      · simp only [hi, State.readKey_writeKey_same]
      · rw [State.readKey_writeKey_other s v hi, State.readKey_writeKey_other t v hi, h.key i] }

theorem writePlane (h : Alike s t) (p : Fin 64) (b : Fin 4) (v : Byte) :
    Alike (s.writePlane p b v) (t.writePlane p b v) :=
  { h with
    planeMark := congrArg (fun w => w.set (planeByteIndex p b).val true) h.planeMark
    plane := fun q c => by
      by_cases hq : q = p ∧ c = b
      · simp only [hq, State.readPlane_writePlane_same]
      · rw [State.readPlane_writePlane_other s v hq, State.readPlane_writePlane_other t v hq, h.plane q c] }

theorem peek (h : Alike s t) (a : PortAddr) : s.peek a = t.peek a := by
  unfold State.peek
  cases region a with
  | batch x => exact congrArg (Memory.read · x.val) h.batch
  | key j => exact h.key j
  | cmd => exact congrArg some h.cmd
  | status => exact congrArg some h.status
  | round => exact congrArg (fun r => some (r.setWidth 8)) h.round
  | plane p b => exact h.plane p b
  | reserved => rfl

theorem roundInRange (h : Alike s t) (c : Command) : s.roundInRange c = t.roundInRange c := by
  cases c <;> simp only [State.roundInRange, h.round]

theorem operandsWritten (h : Alike s t) (c : Command) : s.operandsWritten c = t.operandsWritten c := by
  cases c <;> simp only [State.operandsWritten, State.batchWritten, State.planeWritten, State.keyWritten,
    State.roundKeyWritten, h.batch, h.planeMark, h.keyMark]

/-- A byte of KEY that is written is the same in both. -/
theorem keyByte_eq (h : Alike s t) {j : Fin 10} (hw : s.keyMark[j] = true) : byteAt s.key j.val = byteAt t.key j.val := by
  have hj := h.key j
  simpa only [State.readKey, ← h.keyMark, hw, if_pos, Option.some.injEq] using hj

theorem key_eq (h : Alike s t) (hw : s.keyWritten = true) : s.key = t.key :=
  eq_of_byteAt_eq fun i hi => h.keyByte_eq (j := ⟨i / 8, by omega⟩) (s.keyWritten_iff.mp hw _)

/-- The round key reads `KEY[2..9]` only (R79). -/
theorem roundKey_eq (h : Alike s t) (hw : s.roundKeyWritten = true) : roundKey s.key = roundKey t.key := by
  apply BitVec.eq_of_getLsbD_eq
  intro i hi
  have hmark := s.roundKeyWritten_iff.mp hw ⟨i / 8 + 2, by omega⟩ (Nat.le_add_left 2 _)
  rw [roundKey_getLsbD_eq_byteAt s.key hi, roundKey_getLsbD_eq_byteAt t.key hi, h.keyByte_eq hmark]

theorem plane_eq (h : Alike s t) (hw : s.planeWritten = true) : s.plane = t.plane := by
  have hplane : ∀ p : Fin 64, s.plane[p] = t.plane[p] := fun p => eq_of_byteAt_eq fun i hi => by
    have hread := h.plane p ⟨i / 8, by omega⟩
    have hmark := s.planeWritten_iff.mp hw (planeByteIndex p ⟨i / 8, by omega⟩)
    simpa only [State.readPlane, ← h.planeMark, hmark, if_pos, Option.some.injEq] using hread
  exact Vector.ext fun p hp => hplane ⟨p, hp⟩

end Alike

theorem encodedPlanes_eq_of_batch {s t : State} (h : s.batch = t.batch) : encodedPlanes s = encodedPlanes t := by
  simp only [encodedPlanes, State.bit, State.batchByte, h]

theorem permutedIndex_surjective (j : Fin 64) : ∃ i, permutedIndex i = j :=
  ⟨⟨4 * (j.val % 16) + j.val / 16, by omega⟩, Fin.ext (by simp only [permutedIndex]; omega)⟩

/-- The permutation fills the whole buffer, so nothing of what it held is left (R26, R84). -/
theorem permutedInto_eq (x y p : Planes) : permutedInto x p = permutedInto y p := by
  have hplane : ∀ j : Fin 64, (permutedInto x p)[j] = (permutedInto y p)[j] := fun j => by
    obtain ⟨i, rfl⟩ := permutedIndex_surjective j
    rw [permutedInto_getElem, permutedInto_getElem]
  exact Vector.ext fun j hj => hplane ⟨j, hj⟩

namespace Alike

variable {s t : State}

theorem encodeEffect (h : Alike s t) : Alike (encodeEffect s) (encodeEffect t) := by
  rw [encodeEffect_eq, encodeEffect_eq, encodedPlanes_eq_of_batch h.batch]
  exact h.setPlanes _

theorem decodeEffect (h : Alike s t) (hp : s.plane = t.plane) : Alike (decodeEffect s) (decodeEffect t) := by
  rw [decodeEffect_eq, decodeEffect_eq, hp]
  exact h.setBatch _

theorem keyScheduleEffect (h : Alike s t) (hk : s.key = t.key) (r : Round) :
    Alike (keyScheduleEffect r s) (keyScheduleEffect r t) := by
  rw [keyScheduleEffect_eq, keyScheduleEffect_eq, hk]
  exact h.setKey _

theorem keyMixEffect (h : Alike s t) (hp : s.plane = t.plane) (hk : roundKey s.key = roundKey t.key) :
    Alike (keyMixEffect s) (keyMixEffect t) := by
  rw [keyMixEffect_eq, keyMixEffect_eq, hp, hk]
  exact h.setPlanes _

theorem sboxEffect (h : Alike s t) (hp : s.plane = t.plane) : Alike (sboxEffect s) (sboxEffect t) := by
  rw [sboxEffect_eq, sboxEffect_eq, hp]
  exact h.setPlanes _

theorem playerEffect (h : Alike s t) (hp : s.plane = t.plane) : Alike (playerEffect s) (playerEffect t) := by
  rw [playerEffect_eq, playerEffect_eq, hp, permutedInto_eq s.tmp t.tmp]
  generalize permutedInto t.tmp t.plane = p
  exact (h.setPlanes _).withTmp _ _

theorem roundEffect (h : Alike s t) (hp : s.plane = t.plane) (hk : s.key = t.key) (r : Round) :
    Alike (roundEffect r s) (roundEffect r t) := by
  have hplanes : roundPlanes s = roundPlanes t := by
    rw [roundPlanes, roundPlanes, hp, hk, permutedInto_eq s.tmp t.tmp]
  rw [roundEffect_eq, roundEffect_eq, hplanes, hk]
  generalize roundPlanes t = p
  exact (((h.setPlanes _).setKey _).withTmp _ _).withRound _

end Alike

/-- Two states of ENCRYPT's sequencer that no phase can tell apart: alike, with one key, and with the same planes once ENC has
written them (R95). -/
structure SequencersAgree (s t : State) : Prop where
  alike : Alike s t
  key : s.key = t.key
  plane : s.phase ≠ .enc → s.plane = t.plane

theorem SequencersAgree.sequencerStep {s t : State} (h : SequencersAgree s t) :
    SequencersAgree (sequencerStep s) (sequencerStep t) := by
  obtain ⟨ha, hk, hplane⟩ := h
  unfold Machine.sequencerStep
  rw [← ha.phase]
  split
  · exact ⟨ha, hk, hplane⟩
  · exact ⟨(ha.encodeEffect.withRound 1#6).withPhase (.rnd 1#6 .keyMix), hk,
      fun _ => encodedPlanes_eq_of_batch ha.batch⟩
  · next r hph =>
    have hp := hplane (by simp [hph])
    have hrk := congrArg roundKey hk
    exact ⟨(ha.keyMixEffect hp hrk).withPhase (.rnd r .substitute), hk, fun _ => congrArg₂ keyMixed hp hrk⟩
  · next r hph =>
    have hp := hplane (by simp [hph])
    exact ⟨(ha.sboxEffect hp).withPhase (.rnd r .permute), hk, fun _ => congrArg substituted hp⟩
  · next r hph =>
    have hp := hplane (by simp [hph])
    refine ⟨(ha.playerEffect hp).withPhase (.rnd r .keyScheduleAdvance), ?_, fun _ => ?_⟩
    · simpa only [playerEffect_eq] using hk
    · simp only [playerEffect_eq, hp, permutedInto_eq s.tmp t.tmp]
  · next r hph =>
    have hp := hplane (by simp [hph])
    exact ⟨((ha.keyScheduleEffect hk r).withRound (r + 1#6)).withPhase (phaseAfterRound r),
      congrArg (keySchedule · r) hk, fun _ => hp⟩
  · next hph =>
    have hp := hplane (by simp [hph])
    have hrk := congrArg roundKey hk
    exact ⟨(ha.keyMixEffect hp hrk).withPhase .dec, hk, fun _ => congrArg₂ keyMixed hp hrk⟩
  · next hph =>
    have hp := hplane (by simp [hph])
    exact ⟨(ha.decodeEffect hp).withPhase .idle, hk, fun _ => hp⟩

theorem SequencersAgree.runSequencer {s t : State} (n : Nat) (h : SequencersAgree s t) :
    SequencersAgree (runSequencer n s) (runSequencer n t) := by
  induction n generalizing s t with
  | zero => exact h
  | succ n ih => exact ih h.sequencerStep

theorem Alike.encryptEffect {s t : State} (h : Alike s t) (hk : s.key = t.key) :
    Alike (encryptEffect s) (encryptEffect t) :=
  (SequencersAgree.runSequencer encryptPhases ⟨h.withPhase .enc, hk, fun hne => absurd rfl hne⟩).alike

/-- With its operands written, a command has the same effect on both. -/
theorem Alike.commandEffect {s t : State} (h : Alike s t) (c : Command) (hw : s.operandsWritten c = true) :
    Alike (commandEffect c s) (commandEffect c t) := by
  cases c with
  | nop => exact h
  | encode => exact h.encodeEffect
  | decode => exact h.decodeEffect (h.plane_eq hw)
  | ksadv =>
    simp only [Machine.commandEffect, ← h.round]
    exact h.keyScheduleEffect (h.key_eq hw) _
  | keymix =>
    obtain ⟨hp, hk⟩ := Bool.and_eq_true _ _ ▸ hw
    exact h.keyMixEffect (h.plane_eq hp) (h.roundKey_eq hk)
  | sbox => exact h.sboxEffect (h.plane_eq hw)
  | player => exact h.playerEffect (h.plane_eq hw)
  | round =>
    obtain ⟨hp, hk⟩ := Bool.and_eq_true _ _ ▸ hw
    simp only [Machine.commandEffect, ← h.round]
    exact h.roundEffect (h.plane_eq hp) (h.key_eq hk) _
  | encrypt =>
    obtain ⟨_, hk⟩ := Bool.and_eq_true _ _ ▸ hw
    exact h.encryptEffect (h.key_eq hk)

theorem Alike.exec_command {s t : State} (h : Alike s t) (c : Command) :
    outcomesAlike (exec c.instr s) (exec c.instr t) := by
  have hr' := h.roundInRange c
  have hw' := h.operandsWritten c
  rw [Machine.exec_command, Machine.exec_command]
  cases hr : s.roundInRange c with
  | false =>
    rw [runCommand_outOfRange hr, runCommand_outOfRange (hr' ▸ hr)]
    exact (h.startCommand _).raiseError _
  | true =>
    cases hw : s.operandsWritten c with
    | false =>
      rw [runCommand_uninit hr hw, runCommand_uninit (hr' ▸ hr) (hw' ▸ hw)]
      rfl
    | true =>
      rw [runCommand_completes hr hw, runCommand_completes (hr' ▸ hr) (hw' ▸ hw)]
      have hstart : (s.startCommand c.byte).operandsWritten c = true := by cases c <;> exact hw
      exact ((h.startCommand c.byte).commandEffect c hstart).complete

theorem Alike.writeCommand {s t : State} (h : Alike s t) (v : Byte) :
    outcomesAlike (writeCommand v s) (writeCommand v t) := by
  unfold Machine.writeCommand
  cases decodeCommand v with
  | ok c =>
    simp only [performCommand_eq_exec]
    exact h.exec_command c
  | error e => exact (h.startCommand v).raiseError _

theorem Alike.execWr {s t : State} (h : Alike s t) (a : PortAddr) (d : Byte) :
    outcomesAlike (execWr a d s) (execWr a d t) := by
  unfold Machine.execWr
  cases region a with
  | batch x => exact h.writeBatch x d
  | key j => exact h.writeKey j d
  | cmd => exact h.writeCommand d
  | status => exact h
  | round => exact h.withRound _
  | plane p b => exact h.writePlane p b d
  | reserved => exact h.recordUnmapped

theorem Alike.execRd {s t : State} (h : Alike s t) (a : PortAddr) : outcomesAlike (execRd a s) (execRd a t) := by
  unfold Machine.execRd
  rw [h.peek a]
  cases t.peek a with
  | none => rfl
  | some v => exact (h.noteRead a).returnByte v

theorem Alike.exec {s t : State} (h : Alike s t) (i : Instr) : outcomesAlike (exec i s) (exec i t) := by
  rcases instr_cases i with ⟨c, rfl⟩ | ⟨a, d, rfl⟩ | ⟨a, rfl⟩
  · exact h.exec_command c
  · exact h.execWr a d
  · exact h.execRd a

theorem Alike.rejectWord {s t : State} (h : Alike s t) (bytes : List Byte) (e : DecodeError) :
    outcomesAlike (rejectWord bytes e s) (rejectWord bytes e t) := by
  cases e with
  | reservedBits v => exact h.writeCommand v
  | illegalOp v => exact h.writeCommand v
  | highBits w => rfl
  | readWithData w => rfl
  | noSuchLength n => rfl

/-- Settles O59: both states have the same next input, and each thing it can be answers alike. -/
theorem unwrittenValuesNeverMatter : Obligations.UnwrittenValuesNeverMatter := by
  intro s t h
  unfold step
  rw [← h.inputs]
  cases s.inputs with
  | nil => exact h
  | cons input rest =>
    have hrest := h.withInputs rest
    cases input with
    | rst => exact hrest.takeReset
    | rstInCommand v => exact hrest.takeReset
    | word bytes =>
      dsimp only
      cases decode bytes with
      | ok i => exact hrest.exec i
      | error e => exact hrest.rejectWord bytes e

end Sys2Proof.Machine
end

section
/-! One transaction at the port (R33, R34): the region of an address that is given as an offset into it, what WR answers in
each region, and what RD answers from what the address shows. -/

namespace Sys2Proof.Machine

theorem region_eq_batch {a : PortAddr} {x : Fin 256} (h : a.toNat = x.val) : region a = .batch x :=
  (region_batch (h ▸ x.isLt)).trans (congrArg Region.batch (Fin.ext h))

theorem region_eq_key {a : PortAddr} {j : Fin 10} (h : a.toNat = 0x100 + j.val) : region a = .key j := by
  rw [region_key (by omega) (by omega), Region.key.injEq, Fin.ext_iff]
  exact Nat.sub_eq_of_eq_add' h

theorem region_eq_plane {a : PortAddr} {p : Fin 64} {b : Fin 4} (h : a.toNat = 0x200 + 4 * p.val + b.val) :
    region a = .plane p b := by
  rw [region_plane (by omega) (by omega), Region.plane.injEq, Fin.ext_iff, Fin.ext_iff]
  dsimp only
  omega

theorem region_eq_reserved {a : PortAddr} (h : Claims.reservedAddress a) : region a = .reserved := by
  unfold Claims.reservedAddress at h
  rw [region_reserved_iff]
  omega

variable {s : State} {a : PortAddr}

theorem exec_wr_batch {x : Fin 256} (h : region a = .batch x) (d : Byte) :
    exec (.wr a d) s = .next (s.writeBatch x d) := by
  simp only [exec, execWr, h]

theorem exec_wr_key {j : Fin 10} (h : region a = .key j) (d : Byte) :
    exec (.wr a d) s = .next (s.writeKey j d) := by
  simp only [exec, execWr, h]

theorem exec_wr_plane {p : Fin 64} {b : Fin 4} (h : region a = .plane p b) (d : Byte) :
    exec (.wr a d) s = .next (s.writePlane p b d) := by
  simp only [exec, execWr, h]

theorem exec_wr_reserved (h : region a = .reserved) (d : Byte) :
    exec (.wr a d) s = .next s.recordUnmapped := by
  simp only [exec, execWr, h]

theorem State.peek_batch {x : Fin 256} (h : region a = .batch x) : s.peek a = s.readBatch x := by
  simp only [State.peek, h]

theorem State.peek_key {j : Fin 10} (h : region a = .key j) : s.peek a = s.readKey j := by
  simp only [State.peek, h]

theorem State.peek_plane {p : Fin 64} {b : Fin 4} (h : region a = .plane p b) : s.peek a = s.readPlane p b := by
  simp only [State.peek, h]

theorem State.readKey_eq_some_iff {j : Fin 10} {v : Byte} :
    s.readKey j = some v ↔ s.keyMark[j] = true ∧ byteAt s.key j.val = v := by
  simp only [State.readKey, Option.ite_none_right_eq_some, Option.some.injEq]

theorem State.readKey_eq_none_iff {j : Fin 10} : s.readKey j = none ↔ s.keyMark[j] = false := by
  rw [← Option.isNone_iff_eq_none, ← Option.not_isSome, Bool.not_eq_true', State.readKey_isSome]

theorem State.readPlane_eq_some_iff {p : Fin 64} {b : Fin 4} {v : Byte} :
    s.readPlane p b = some v ↔ s.planeMark[planeByteIndex p b] = true ∧ byteAt s.plane[p] b.val = v := by
  simp only [State.readPlane, Option.ite_none_right_eq_some, Option.some.injEq]

theorem State.readPlane_eq_none_iff {p : Fin 64} {b : Fin 4} :
    s.readPlane p b = none ↔ s.planeMark[planeByteIndex p b] = false := by
  rw [← Option.isNone_iff_eq_none, ← Option.not_isSome, Bool.not_eq_true', State.readPlane_isSome]

theorem exec_rd_mapped {v : Byte} (hm : region a ≠ .reserved) (h : s.peek a = some v) :
    exec (.rd a) s = .next { s with observed := s.observed ++ [v] } :=
  execRd_of_peek hm h

theorem exec_rd_unwritten (h : s.peek a = none) : exec (.rd a) s = .fault (.uninitReadAt a) := by
  simp only [exec, execRd, h]

theorem exec_rd_reserved (h : region a = .reserved) :
    exec (.rd a) s = .next (s.recordUnmapped.returnByte 0x00#8) := by
  simp only [exec, execRd, State.peek, State.noteRead, h]

/-- R105: what `recordUnmapped` does to STATUS. -/
theorem unmappedRecorded_statusWithUnmapped (st : Byte) : Claims.unmappedRecorded st (statusWithUnmapped st) :=
  ⟨statusErr_statusWithUnmapped st, statusErrCode_statusWithUnmapped st, statusDone_statusWithUnmapped st,
    statusReserved_statusWithUnmapped st⟩

/-- R21: the two bits above ROUND read as zero. -/
theorem round_setWidth_eq_append (r : Round) : r.setWidth 8 = 0#2 ++ r := by
  rw [BitVec.setWidth_eq_append (by decide)]
  rfl

end Sys2Proof.Machine
end

section
/-! RD and WR at every address of the map (R33, R34, R42). -/

namespace Sys2Proof.Machine

/-- Settles O11: in each region RD answers what the address shows there. -/
theorem readReturnsTheMappedByte : Obligations.ReadReturnsTheMappedByte := by
  intro a s
  refine ⟨fun x ha v hv => ?_, fun x ha hv => ?_, fun j ha hm => ?_, fun j ha hm => ?_, ?_, ?_, ?_,
    fun p b ha hm => ?_, fun p b ha hm => ?_, fun ha => ?_⟩
  · have hr := region_eq_batch ha
    exact exec_rd_mapped (by simp [hr]) ((State.peek_batch hr).trans hv)
  · exact exec_rd_unwritten ((State.peek_batch (region_eq_batch ha)).trans hv)
  · have hr := region_eq_key ha
    exact exec_rd_mapped (by simp [hr]) ((State.peek_key hr).trans (State.readKey_eq_some_iff.mpr ⟨hm, rfl⟩))
  · exact exec_rd_unwritten ((State.peek_key (region_eq_key ha)).trans (State.readKey_eq_none_iff.mpr hm))
  · rintro rfl
    rfl
  · rintro rfl
    rfl
  · rintro rfl
    rw [← round_setWidth_eq_append]
    rfl
  · have hr := region_eq_plane ha
    exact exec_rd_mapped (by simp [hr]) ((State.peek_plane hr).trans (State.readPlane_eq_some_iff.mpr ⟨hm, rfl⟩))
  · exact exec_rd_unwritten ((State.peek_plane (region_eq_plane ha)).trans (State.readPlane_eq_none_iff.mpr hm))
  · exact ⟨_, exec_rd_reserved (region_eq_reserved ha), rfl, unmappedRecorded_statusWithUnmapped s.status, rfl⟩

/-- Settles O12: WR there is `writeBatch`, and its two read rules say the rest. -/
theorem writeToBatchChangesOneByte : Obligations.WriteToBatchChangesOneByte := fun _ d s x ha =>
  ⟨s.writeBatch x d, exec_wr_batch (region_eq_batch ha) d, s.readBatch_writeBatch_same x d,
    fun y => s.readBatch_writeBatch_other x y d, rfl⟩

/-- Settles O13: WR there is `writeKey`, which replaces one byte of KEY80. -/
theorem writeToKeyChangesOneByte : Obligations.WriteToKeyChangesOneByte := fun _ d s j ha =>
  ⟨s.writeKey j d, exec_wr_key (region_eq_key ha) d, s.readKey_writeKey_same j d,
    fun n => withByteAt_getLsbD s.key j.val d n, fun _ => s.readKey_writeKey_other d, rfl⟩

/-- Settles O14: WR there is `writePlane`, which replaces one byte of one entry of PLANE. -/
theorem writeToPlaneChangesOneByte : Obligations.WriteToPlaneChangesOneByte := by
  intro a d s p b ha
  refine ⟨s.writePlane p b d, exec_wr_plane (region_eq_plane ha) d, s.readPlane_writePlane_same p b d,
    fun n hn => ?_, fun q hq => ?_, fun q c hne => ?_, rfl⟩
  · have hplane : (s.writePlane p b d).plane[p] = withByteAt s.plane[p] b.val d := Vector.getElem_set_self p.isLt
    rw [hplane, withByteAt_getLsbD _ _ _ _ hn]
  · exact Vector.getElem_set_ne p.isLt q.isLt (Fin.val_ne_of_ne hq.symm)
  · exact s.readPlane_writePlane_other d fun ⟨hq, hc⟩ => hne (Prod.ext hq hc)

/-- Settles O15: both addresses are fixed, so each write is the equation of its region. -/
theorem writesToStatusAndRound : Obligations.WritesToStatusAndRound := fun _ _ => ⟨rfl, rfl⟩

/-- Settles O16: WR and RD at a reserved address both record UNMAPPED. -/
theorem unmappedAccessIsRecordedAndChangesNothingElse : Obligations.UnmappedAccessIsRecordedAndChangesNothingElse := by
  intro a d s ha
  have hr := region_eq_reserved ha
  have hst := unmappedRecorded_statusWithUnmapped s.status
  exact ⟨⟨_, exec_wr_reserved hr d, hst, rfl⟩, _, exec_rd_reserved hr, rfl, hst, rfl⟩

end Sys2Proof.Machine
end

section
/-! A list of transactions that all go on, and the macros SETKEY and LOADBLK (R63): each is a list of writes into one region,
and a byte reads afterwards as the list wrote it, or as before. -/

namespace Sys2Proof.Machine

theorem execAll_map_eq_foldl {ι : Type} {instr : ι → Instr} {next : State → ι → State}
    (h : ∀ s i, exec (instr i) s = .next (next s i)) (l : List ι) (s : State) :
    execAll (l.map instr) s = .next (l.foldl next s) := by
  induction l generalizing s with
  | nil => rfl
  | cons i rest ih => simp only [List.map_cons, execAll, h, ih, List.foldl_cons]

/-- The read of a storage after a list of writes to it, from its two rules of a read after one write: the place holds what the
list writes there, or what it held before. -/
theorem read_foldl_write {ι : Type} [DecidableEq ι] {read : State → ι → Option Byte} {write : State → ι → Byte → State}
    (same : ∀ s i v, read (write s i v) i = some v) (other : ∀ s i j v, i ≠ j → read (write s j v) i = read s i)
    (f : ι → Byte) (l : List ι) (s : State) (i : ι) :
    read (l.foldl (fun t j => write t j (f j)) s) i = if i ∈ l then some (f i) else read s i := by
  induction l generalizing s with
  | nil => simp
  | cons j rest ih =>
    rw [List.foldl_cons, ih]
    by_cases hi : i = j
    · subst hi
      simp [same]
    · simp [hi, other s i j (f j) hi]

/-- The state after the bytes `f j` have been written to KEY at the places of the list. -/
def State.writeKeyBytes (s : State) (f : Fin 10 → Byte) (l : List (Fin 10)) : State :=
  l.foldl (fun t j => t.writeKey j (f j)) s

/-- The state after the bytes `f a` have been written to BATCH at the addresses of the list. -/
def State.writeBatchBytes (s : State) (f : Fin 256 → Byte) (l : List (Fin 256)) : State :=
  l.foldl (fun t a => t.writeBatch a (f a)) s

theorem State.readKey_writeKeyBytes (s : State) (f : Fin 10 → Byte) (l : List (Fin 10)) (j : Fin 10) :
    (s.writeKeyBytes f l).readKey j = if j ∈ l then some (f j) else s.readKey j :=
  read_foldl_write State.readKey_writeKey_same (fun s _ _ v => s.readKey_writeKey_other v) f l s j

theorem State.readBatch_writeBatchBytes (s : State) (f : Fin 256 → Byte) (l : List (Fin 256)) (a : Fin 256) :
    (s.writeBatchBytes f l).readBatch a = if a ∈ l then some (f a) else s.readBatch a :=
  read_foldl_write State.readBatch_writeBatch_same (fun s b a v => s.readBatch_writeBatch_other a b v) f l s a

theorem State.writeKeyBytes_frame (s : State) (f : Fin 10 → Byte) (l : List (Fin 10)) :
    { s with key := (s.writeKeyBytes f l).key, keyMark := (s.writeKeyBytes f l).keyMark } = s.writeKeyBytes f l :=
  List.foldlRecOn l (fun t j => t.writeKey j (f j))
    (motive := fun t : State => { s with key := t.key, keyMark := t.keyMark } = t) rfl
    fun _ h j _ => congrArg (·.writeKey j (f j)) h

theorem State.writeBatchBytes_frame (s : State) (f : Fin 256 → Byte) (l : List (Fin 256)) :
    { s with batch := (s.writeBatchBytes f l).batch } = s.writeBatchBytes f l :=
  List.foldlRecOn l (fun t a => t.writeBatch a (f a)) (motive := fun t : State => { s with batch := t.batch } = t) rfl
    fun _ h a _ => congrArg (·.writeBatch a (f a)) h

/-- A KEY whose ten bytes read as those of `k` is `k`, written whole (R19). -/
theorem State.key_of_readKey {s : State} {k : Key} (h : ∀ j, s.readKey j = some (byteAt k j.val)) :
    s.key = k ∧ s.keyWritten = true := by
  simp only [State.readKey_eq_some_iff] at h
  exact ⟨eq_of_byteAt_eq fun i hi => (h ⟨i / 8, by omega⟩).2, s.keyWritten_iff.mpr fun j => (h j).1⟩

/-- R13, byte by byte. -/
theorem byteAt_blk (s : State) (k : Fin 32) {q : Nat} (hq : q < 8) :
    byteAt (s.blk k) q = s.batchByte (8 * k.val + q) := by
  apply BitVec.eq_of_getLsbD_eq
  intro t ht
  rw [byteAt_getLsbD _ _ _ ht, blk_getLsbD s k hq ht]

/-- A lane whose eight bytes read as those of `v` holds the block `v` (R13). -/
theorem State.blk_of_readBatch {s : State} {k : Fin 32} {v : Block}
    (h : ∀ j : Fin 8, s.readBatch ⟨8 * k.val + j.val, by omega⟩ = some (byteAt v j.val)) : s.blk k = v := by
  refine eq_of_byteAt_eq fun i hi => ?_
  have hread : s.batch.read (8 * k.val + i / 8) = some (byteAt v (i / 8)) := h ⟨i / 8, by omega⟩
  rw [byteAt_blk s k (by omega), State.batchByte, hread, Option.getD_some]

/-- Byte `j` of block `k` in BATCH (R12). -/
def batchIndex (k : Fin 32) (j : Fin 8) : Fin 256 := ⟨8 * k.val + j.val, by omega⟩

theorem region_batchAddr (k : Fin 32) (j : Fin 8) : region (batchAddr k j) = .batch (batchIndex k j) :=
  region_eq_batch (by simp only [batchAddr, batchIndex, BitVec.toNat_ofNat]; omega)

theorem region_keyAddr (j : Fin 10) : region (keyAddr j) = .key j :=
  region_eq_key (by simp only [keyAddr, BitVec.toNat_ofNat]; omega)

theorem mem_map_batchIndex_iff {k : Fin 32} {a : Fin 256} :
    a ∈ (List.finRange 8).map (batchIndex k) ↔ a.val / 8 = k.val := by
  simp only [List.mem_map, List.mem_finRange, true_and, batchIndex, Fin.ext_iff]
  constructor
  · rintro ⟨j, hj⟩
    omega
  · intro h
    exact ⟨⟨a.val % 8, by omega⟩, by dsimp only; omega⟩

/-- The state after the eight bytes of `v` have been written to block `k` (R37). -/
def State.loadBlock (s : State) (k : Fin 32) (v : Block) : State :=
  s.writeBatchBytes (fun a => byteAt v (a.val % 8)) ((List.finRange 8).map (batchIndex k))

theorem State.readBatch_loadBlock (s : State) (k : Fin 32) (v : Block) (a : Fin 256) :
    (s.loadBlock k v).readBatch a = if a.val / 8 = k.val then some (byteAt v (a.val % 8)) else s.readBatch a := by
  simp only [State.loadBlock, State.readBatch_writeBatchBytes, mem_map_batchIndex_iff]

theorem State.readBatch_loadBlock_byte (s : State) (k : Fin 32) (v : Block) (j : Fin 8) :
    (s.loadBlock k v).readBatch ⟨8 * k.val + j.val, by omega⟩ = some (byteAt v j.val) := by
  have hblock : (8 * k.val + j.val) / 8 = k.val := by omega
  have hbyte : (8 * k.val + j.val) % 8 = j.val := by omega
  rw [State.readBatch_loadBlock, if_pos hblock, hbyte]

theorem execAll_setKeyMacro (k : Key) (s : State) :
    execAll (setKeyMacro k) s = .next (s.writeKeyBytes (fun j => byteAt k j.val) (List.finRange 10)) :=
  execAll_map_eq_foldl (fun _ j => exec_wr_key (region_keyAddr j) _) _ s

theorem execAll_loadBlk (k : Fin 32) (v : Block) (s : State) :
    execAll (loadBlk k v) s = .next (s.loadBlock k v) := by
  rw [State.loadBlock, State.writeBatchBytes, List.foldl_map]
  refine execAll_map_eq_foldl (fun t j => ?_) _ s
  have hbyte : (batchIndex k j).val % 8 = j.val := by simp only [batchIndex]; omega
  rw [exec_wr_batch (region_batchAddr k j), hbyte]

/-- Settles O54: SETKEY writes every byte of KEY, so each reads as the byte of `k`. -/
theorem setKeyLoadsTheKey : Obligations.SetKeyLoadsTheKey := by
  intro k s
  obtain ⟨hkey, hwritten⟩ := State.key_of_readKey (k := k) fun j =>
    (s.readKey_writeKeyBytes (fun j => byteAt k j.val) (List.finRange 10) j).trans (if_pos (List.mem_finRange j))
  exact ⟨_, execAll_setKeyMacro k s, hkey, hwritten, s.writeKeyBytes_frame _ _⟩

/-- Settles O55: LOADBLK writes the addresses of block `k` and no others. -/
theorem loadBlkLoadsTheBlock : Obligations.LoadBlkLoadsTheBlock := fun k v s =>
  ⟨s.loadBlock k v, execAll_loadBlk k v s, State.blk_of_readBatch (s.readBatch_loadBlock_byte k v),
    s.readBatch_loadBlock_byte k v, fun a ha => (s.readBatch_loadBlock k v a).trans (if_neg ha),
    s.writeBatchBytes_frame _ _⟩

end Sys2Proof.Machine
end

section
/-! The command byte (R53, R54, R56 to R58, R64): its two fields as ranges of its number, and what the decoder and the check of
a command byte answer in each range. -/

namespace Sys2Proof.Machine

variable {v : Byte}

/-- RSV is zero below 0x10 (R56, R58). -/
theorem reservedField_eq_zero_iff : v.extractLsb' 4 4 = 0#4 ↔ v.toNat < 0x10 := by
  have hv := v.isLt
  rw [← BitVec.toNat_inj]
  simp only [BitVec.extractLsb'_toNat, Nat.shiftRight_eq_div_pow, BitVec.toNat_ofNat]
  omega

/-- Below 0x10 a command byte is its opcode field (R54). -/
theorem opcodeField_toNat (h : v.toNat < 0x10) : (v.extractLsb' 0 4).toNat = v.toNat := by
  rw [BitVec.extractLsb'_toNat, Nat.shiftRight_zero]
  exact Nat.mod_eq_of_lt h

/-- The opcode map has entries at 0 to 8 and no others (R54, R57). -/
theorem commandOfOp_eq_none_iff : ∀ op : BitVec 4, commandOfOp op = none ↔ 9 ≤ op.toNat := by decide

theorem decodeCommand_eq_reservedBits (h : 0x10 ≤ v.toNat) : decodeCommand v = .error (.reservedBits v) := by
  rw [decodeCommand, if_pos (by rw [ne_eq, reservedField_eq_zero_iff]; omega)]

theorem decodeCommand_eq_illegalOp (h : 9 ≤ v.toNat) (h' : v.toNat < 0x10) :
    decodeCommand v = .error (.illegalOp v) := by
  have hop : commandOfOp (v.extractLsb' 0 4) = none := by
    rwa [commandOfOp_eq_none_iff, opcodeField_toNat h']
  rw [decodeCommand, if_neg (not_not_intro (reservedField_eq_zero_iff.mpr h')), hop]

theorem exists_decodeCommand_eq_ok (h : v.toNat < 9) : ∃ c, decodeCommand v = .ok c := by
  have h' : v.toNat < 0x10 := by omega
  have hop : commandOfOp (v.extractLsb' 0 4) ≠ none := by
    rw [ne_eq, commandOfOp_eq_none_iff, opcodeField_toNat h']
    omega
  obtain ⟨c, hc⟩ := Option.ne_none_iff_exists'.mp hop
  exact ⟨c, by rw [decodeCommand, if_neg (not_not_intro (reservedField_eq_zero_iff.mpr h')), hc]⟩

theorem command_byte_toNat_lt (c : Command) : c.byte.toNat < 9 := by cases c <;> decide

theorem exists_decodeCommand_eq_ok_iff : (∃ c, decodeCommand v = .ok c) ↔ v.toNat < 9 :=
  ⟨fun ⟨c, hc⟩ => decodeCommand_ok hc ▸ command_byte_toNat_lt c, exists_decodeCommand_eq_ok⟩

/-- A command byte passes its two checks below 9 (R56, R57). -/
theorem wellFormed_command_iff : WellFormed.command v = true ↔ v.toNat < 9 := by
  simp only [WellFormed.command, WellFormed.reservedClear, WellFormed.opcodeLegal, Bool.and_eq_true, beq_iff_eq,
    decide_eq_true_eq, reservedField_eq_zero_iff]
  constructor
  · rintro ⟨h, hop⟩
    rwa [opcodeField_toNat h] at hop
  · intro h
    have h' : v.toNat < 0x10 := by omega
    exact ⟨h', (opcodeField_toNat h').symm ▸ h⟩

/-- Settles O10: each range of bytes has its answer of the decoder. -/
theorem commandBytesAreLegalIllegalOrReserved : Obligations.CommandBytesAreLegalIllegalOrReserved := by
  refine fun v => ⟨fun h => ?_, fun ⟨h, h'⟩ => decodeCommand_eq_illegalOp h (by omega), decodeCommand_eq_reservedBits⟩
  obtain ⟨c, hc⟩ := exists_decodeCommand_eq_ok (v := v) (by omega)
  exact ⟨c, hc, (decodeCommand_ok hc).symm⟩

end Sys2Proof.Machine
end

section
/-! The transaction word (R59): the encoder's word and the three bytes as numbers, and what the decoder of a transaction word
answers. -/

namespace Sys2Proof.Machine

theorem writeWord_toNat (a : PortAddr) (d : Byte) :
    (writeWord a d).toNat = 0x40000 + 0x100 * a.toNat + d.toNat := by
  have hd := d.isLt
  have ha := a.isLt
  rw [writeWord, BitVec.toNat_append, BitVec.toNat_append, ← Nat.shiftLeft_add_eq_or_of_lt hd,
    ← Nat.shiftLeft_add_eq_or_of_lt ha, Nat.shiftLeft_eq, Nat.shiftLeft_eq, BitVec.toNat_ofNat]
  omega

theorem readWord_toNat (a : PortAddr) : (readWord a).toNat = 0x100 * a.toNat := by
  have ha := a.isLt
  rw [readWord, BitVec.toNat_append, BitVec.toNat_append, BitVec.toNat_ofNat, BitVec.toNat_ofNat, Nat.zero_mod,
    Nat.zero_shiftLeft, Nat.zero_or, Nat.or_zero, Nat.shiftLeft_eq, Nat.mul_comm]

theorem join_toNat (b0 b1 b2 : Byte) :
    (b2 ++ b1 ++ b0).toNat = 0x10000 * b2.toNat + 0x100 * b1.toNat + b0.toNat := by
  rw [BitVec.toNat_append, BitVec.toNat_append, ← Nat.shiftLeft_add_eq_or_of_lt b0.isLt,
    ← Nat.shiftLeft_add_eq_or_of_lt b1.isLt, Nat.shiftLeft_eq, Nat.shiftLeft_eq]
  omega

variable {w : BitVec 24}

theorem highField_eq_zero_iff : w.extractLsb' 19 5 = 0#5 ↔ w.toNat < 0x80000 := by
  have hw := w.isLt
  rw [← BitVec.toNat_inj, BitVec.extractLsb'_toNat, Nat.shiftRight_eq_div_pow, BitVec.toNat_ofNat]
  omega

theorem writeField_iff (h : w.toNat < 0x80000) : w.getLsbD 18 = true ↔ 0x40000 ≤ w.toNat := by
  rw [BitVec.getLsbD, Nat.testBit_eq_decide_div_mod_eq, decide_eq_true_eq]
  omega

theorem addressField_eq_iff {a : PortAddr} : w.extractLsb' 8 10 = a ↔ w.toNat / 0x100 % 0x400 = a.toNat := by
  rw [← BitVec.toNat_inj, BitVec.extractLsb'_toNat, Nat.shiftRight_eq_div_pow]

theorem dataField_eq_iff {d : Byte} : w.extractLsb' 0 8 = d ↔ w.toNat % 0x100 = d.toNat := by
  rw [← BitVec.toNat_inj, BitVec.extractLsb'_toNat, Nat.shiftRight_zero]

/-- Everything the decoder of a transaction word can answer, by the number that the word is (R59). -/
theorem decodeTransaction_cases (w : BitVec 24) :
    (0x80000 ≤ w.toNat ∧ decodeTransaction w = .error (.highBits w)) ∨
      ((0x40000 ≤ w.toNat ∧ w.toNat < 0x80000) ∧
        decodeTransaction w = .ok (.wr (w.extractLsb' 8 10) (w.extractLsb' 0 8))) ∨
      ((w.toNat < 0x40000 ∧ w.toNat % 0x100 ≠ 0) ∧ decodeTransaction w = .error (.readWithData w)) ∨
      ((w.toNat < 0x40000 ∧ w.toNat % 0x100 = 0) ∧ decodeTransaction w = .ok (.rd (w.extractLsb' 8 10))) := by
  have hdata : w.extractLsb' 0 8 = 0#8 ↔ w.toNat % 0x100 = 0 := dataField_eq_iff
  unfold decodeTransaction
  split_ifs with hhigh hwrite hd
  · exact .inl ⟨not_lt.mp (mt highField_eq_zero_iff.mpr hhigh), rfl⟩
  all_goals
    have hlt := highField_eq_zero_iff.mp (not_not.mp hhigh)
    rw [writeField_iff hlt] at hwrite
  · exact .inr (.inl ⟨⟨hwrite, hlt⟩, rfl⟩)
  · exact .inr (.inr (.inl ⟨⟨not_le.mp hwrite, mt hdata.mpr hd⟩, rfl⟩))
  · exact .inr (.inr (.inr ⟨⟨not_le.mp hwrite, hdata.mp (not_not.mp hd)⟩, rfl⟩))

/-- The decoder reads WR A, D from the word that the encoder makes for it, and from no other. -/
theorem decodeTransaction_eq_wr_iff {a : PortAddr} {d : Byte} :
    decodeTransaction w = .ok (.wr a d) ↔ w.toNat = (writeWord a d).toNat := by
  have ha := a.isLt
  have hd := d.isLt
  rw [writeWord_toNat]
  rcases decodeTransaction_cases w with ⟨_, h⟩ | ⟨_, h⟩ | ⟨_, h⟩ | ⟨_, h⟩ <;>
    simp only [h, Except.ok.injEq, Instr.wr.injEq, addressField_eq_iff, dataField_eq_iff, reduceCtorEq, false_iff] <;>
    omega

/-- The decoder reads RD A from the word that the encoder makes for it, and from no other. -/
theorem decodeTransaction_eq_rd_iff {a : PortAddr} :
    decodeTransaction w = .ok (.rd a) ↔ w.toNat = (readWord a).toNat := by
  have ha := a.isLt
  rw [readWord_toNat]
  rcases decodeTransaction_cases w with ⟨_, h⟩ | ⟨_, h⟩ | ⟨_, h⟩ | ⟨_, h⟩ <;>
    simp only [h, Except.ok.injEq, Instr.rd.injEq, addressField_eq_iff, reduceCtorEq, false_iff] <;>
    omega

/-- A transaction word passes its checks when it is a WR word, or an RD word with D = 0 (R59). -/
theorem wellFormed_transaction_iff :
    WellFormed.transaction w = true ↔ w.toNat < 0x80000 ∧ (0x40000 ≤ w.toNat ∨ w.toNat % 0x100 = 0) := by
  have hdata : w.extractLsb' 0 8 = 0#8 ↔ w.toNat % 0x100 = 0 := dataField_eq_iff
  simp only [WellFormed.transaction, WellFormed.noHighBits, WellFormed.readDataClear, Bool.and_eq_true, Bool.or_eq_true,
    beq_iff_eq, highField_eq_zero_iff, hdata]
  exact and_congr_right fun hlt => by rw [writeField_iff hlt]

theorem decodeTransaction_ne_command (w : BitVec 24) (c : Command) : decodeTransaction w ≠ .ok c.instr := by
  rcases decodeTransaction_cases w with ⟨_, h⟩ | ⟨_, h⟩ | ⟨_, h⟩ | ⟨_, h⟩ <;> rw [h] <;> cases c <;> exact nofun

theorem exists_decodeTransaction_eq_ok_iff :
    (∃ i, decodeTransaction w = .ok i) ↔ WellFormed.transaction w = true := by
  rw [wellFormed_transaction_iff]
  rcases decodeTransaction_cases w with ⟨_, h⟩ | ⟨_, h⟩ | ⟨_, h⟩ | ⟨_, h⟩ <;>
    simp only [h, Except.ok.injEq, reduceCtorEq, exists_false, exists_eq', true_iff, false_iff] <;>
    omega

end Sys2Proof.Machine
end

section
/-! The bytes of a word (R60): decoding and encoding undo each other, and the decoder and the checks accept the same words. -/

namespace Sys2Proof.Machine

/-- A word of the host is a command byte, or the three bytes of a transaction word, or no form of R60. -/
theorem word_cases (bytes : List Byte) :
    (∃ v, bytes = [v]) ∨ (∃ b0 b1 b2, bytes = [b0, b1, b2]) ∨
      (bytes.length ≠ 1 ∧ decode bytes = .error (.noSuchLength bytes.length) ∧ WellFormed.word bytes = false) :=
  match bytes with
  | [v] => .inl ⟨v, rfl⟩
  | [b0, b1, b2] => .inr (.inl ⟨b0, b1, b2, rfl⟩)
  | [] | [_, _] | _ :: _ :: _ :: _ :: _ => .inr (.inr ⟨by simp, rfl, rfl⟩)

theorem decode_singleton (v : Byte) : decode [v] = (decodeCommand v).map Command.instr := by
  cases hd : decodeCommand v <;> simp only [decode, hd, Except.map]

theorem decode_singleton_eq_ok_iff {v : Byte} {i : Instr} :
    decode [v] = .ok i ↔ ∃ c, decodeCommand v = .ok c ∧ c.instr = i := by
  rw [decode_singleton]
  cases decodeCommand v <;> simp [Except.map]

theorem exists_decode_singleton_eq_ok_iff {v : Byte} :
    (∃ i, decode [v] = .ok i) ↔ ∃ c, decodeCommand v = .ok c :=
  ⟨fun ⟨_, h⟩ => (decode_singleton_eq_ok_iff.mp h).imp fun _ => And.left,
    fun ⟨c, h⟩ => ⟨c.instr, decode_singleton_eq_ok_iff.mpr ⟨c, h, rfl⟩⟩⟩

theorem decode_triple (b0 b1 b2 : Byte) : decode [b0, b1, b2] = decodeTransaction (b2 ++ b1 ++ b0) := rfl

theorem decode_wordBytes (w : BitVec 19) : decode (wordBytes w) = decodeTransaction (w.setWidth 24) := by
  rw [wordBytes, decode_triple, Laws.join_wordBytes]

/-- Three bytes that join to the number of a 19-bit word are its bytes. -/
theorem wordBytes_eq_of_join {w : BitVec 19} {b0 b1 b2 : Byte} (h : (b2 ++ b1 ++ b0).toNat = w.toNat) :
    wordBytes w = [b0, b1, b2] := by
  have h0 := b0.isLt
  have h1 := b1.isLt
  have h2 := b2.isLt
  rw [join_toNat] at h
  simp only [wordBytes, List.cons.injEq, ← BitVec.toNat_inj, BitVec.extractLsb'_toNat, Nat.shiftRight_eq_div_pow,
    and_true]
  omega

@[simp] theorem encode_command (c : Command) : encode c.instr = [c.byte] := by cases c <;> rfl

/-- Settles O7: a command has its byte, and WR and RD the words that the decoder reads as them. -/
theorem decodeOfEncodeIsTheInstruction : Obligations.DecodeOfEncodeIsTheInstruction := by
  intro i
  rcases instr_cases i with ⟨c, rfl⟩ | ⟨a, d, rfl⟩ | ⟨a, rfl⟩
  · rw [encode_command, decode_singleton_eq_ok_iff]
    exact ⟨c, decodeCommand_byte c, rfl⟩
  · rw [encode, decode_wordBytes, decodeTransaction_eq_wr_iff, BitVec.toNat_setWidth_of_le (by decide)]
  · rw [encode, decode_wordBytes, decodeTransaction_eq_rd_iff, BitVec.toNat_setWidth_of_le (by decide)]

/-- Settles O8: by the form of the word, and for a transaction word by the instruction it decodes to. -/
theorem encodeOfDecodeIsTheWord : Obligations.EncodeOfDecodeIsTheWord := by
  intro bytes i h
  rcases word_cases bytes with ⟨v, rfl⟩ | ⟨b0, b1, b2, rfl⟩ | ⟨_, herr, _⟩
  · obtain ⟨c, hc, rfl⟩ := decode_singleton_eq_ok_iff.mp h
    rw [encode_command, decodeCommand_ok hc]
  · rw [decode_triple] at h
    rcases instr_cases i with ⟨c, rfl⟩ | ⟨a, d, rfl⟩ | ⟨a, rfl⟩
    · exact absurd h (decodeTransaction_ne_command _ c)
    · exact wordBytes_eq_of_join (decodeTransaction_eq_wr_iff.mp h)
    · exact wordBytes_eq_of_join (decodeTransaction_eq_rd_iff.mp h)
  · exact absurd (herr.symm.trans h) nofun

/-- Settles O9: on each form of word the decoder and the checks accept the same numbers. -/
theorem decoderAcceptsExactlyTheWellFormedWords : Obligations.DecoderAcceptsExactlyTheWellFormedWords := by
  intro bytes
  rcases word_cases bytes with ⟨v, rfl⟩ | ⟨b0, b1, b2, rfl⟩ | ⟨_, herr, hwf⟩
  · exact exists_decode_singleton_eq_ok_iff.trans (exists_decodeCommand_eq_ok_iff.trans wellFormed_command_iff.symm)
  · exact exists_decodeTransaction_eq_ok_iff
  · simp [herr, hwf]

/-- Settles O6: each is one closed word, so its decoding is evaluated. -/
theorem decodesTheWordsOfTheSpec : Obligations.DecodesTheWordsOfTheSpec := by
  unfold Obligations.DecodesTheWordsOfTheSpec
  decide

end Sys2Proof.Machine
end

section
/-! The write to CMD (R56, R57, R62), and which words a step refuses (R59). -/

namespace Sys2Proof.Machine

/-- 0x110 is the port address of CMD (R36). -/
theorem exec_wr_cmd (v : Byte) (s : State) : exec (.wr 0x110#10 v) s = writeCommand v s := rfl

theorem writeCommand_of_error {v : Byte} {e : DecodeError} (h : decodeCommand v = .error e) (s : State) :
    writeCommand v s = .next ((s.startCommand v).raiseError (commandError v)) := by
  simp only [writeCommand, h]

theorem commandError_eq_reservedBits {v : Byte} (h : 0x10 ≤ v.toNat) : commandError v = .reservedBits := by
  rw [commandError, if_pos (by rw [ne_eq, reservedField_eq_zero_iff]; omega)]

theorem commandError_eq_illegalOp {v : Byte} (h : v.toNat < 0x10) : commandError v = .illegalOp := by
  rw [commandError, if_neg (not_not_intro (reservedField_eq_zero_iff.mpr h))]

/-- Settles O19: the decoder rejects the byte, and the write records the error of its range. -/
theorem rejectedCommandBytesAreRecorded : Obligations.RejectedCommandBytesAreRecorded := by
  refine fun v s => ⟨fun h => ?_, fun ⟨h, h'⟩ => ?_⟩
  · rw [exec_wr_cmd, writeCommand_of_error (decodeCommand_eq_reservedBits h), commandError_eq_reservedBits h]
    rfl
  · have hlt : v.toNat < 0x10 := by omega
    rw [exec_wr_cmd, writeCommand_of_error (decodeCommand_eq_illegalOp h hlt), commandError_eq_illegalOp hlt]
    rfl

/-- Settles O18: the word is the sum of its fields, and the write performs the command its byte decodes to. -/
theorem commandMnemonicIsItsWriteToCmd : Obligations.CommandMnemonicIsItsWriteToCmd := by
  refine fun c => ⟨?_, fun s => (exec_wr_cmd c.byte s).trans (writeCommand_byte c s)⟩
  rw [encode, Laws.wordValue_wordBytes, writeWord_toNat]
  rfl

theorem wellFormed_word_eq_false_iff {bytes : List Byte} :
    WellFormed.word bytes = false ↔ ∃ e, decode bytes = .error e := by
  rw [← Bool.not_eq_true, ← decoderAcceptsExactlyTheWellFormedWords bytes]
  cases decode bytes <;> simp

/-- A word that decodes to no instruction, and is not one byte, is refused by name (R59). -/
theorem rejectWord_eq_refused {bytes : List Byte} {e : DecodeError} (h : decode bytes = .error e)
    (hlen : bytes.length ≠ 1) (s : State) : rejectWord bytes e s = .refused (.notATransaction bytes) := by
  rcases word_cases bytes with ⟨v, rfl⟩ | ⟨b0, b1, b2, rfl⟩ | ⟨_, herr, _⟩
  · exact absurd rfl hlen
  · rw [decode_triple] at h
    rcases decodeTransaction_cases (b2 ++ b1 ++ b0) with ⟨_, hd⟩ | ⟨_, hd⟩ | ⟨_, hd⟩ | ⟨_, hd⟩ <;>
      cases hd.symm.trans h <;> rfl
  · cases herr.symm.trans h
    rfl

theorem rejectWord_command_byte {v : Byte} {e : DecodeError} (h : decodeCommand v = .error e) (s : State) :
    rejectWord [v] e s = writeCommand v s := by
  rcases decodeCommand_error h with ⟨rfl, _⟩ | ⟨rfl, _⟩ <;> rfl

section
variable {s : State} {bytes : List Byte} {rest : List HostInput}

/-- The port gives up the word and its rejection runs on what is left (R32, R59). -/
theorem step_eq_rejectWord_of_decode {e : DecodeError} (hin : s.inputs = .word bytes :: rest)
    (hdec : decode bytes = .error e) : step s = rejectWord bytes e { s with inputs := rest } := by
  simp only [step, hin, hdec]

theorem step_eq_refused (hin : s.inputs = .word bytes :: rest) (hlen : bytes.length ≠ 1)
    (hwf : WellFormed.word bytes = false) : step s = .refused (.notATransaction bytes) := by
  obtain ⟨e, he⟩ := wellFormed_word_eq_false_iff.mp hwf
  rw [step_eq_rejectWord_of_decode hin he, rejectWord_eq_refused he hlen]

/-- A command byte on the port is its write to CMD, whether it names a command or not (R62, R102). -/
theorem step_command_byte {v : Byte} (hin : s.inputs = .word [v] :: rest) :
    step s = exec (.wr 0x110#10 v) { s with inputs := rest } := by
  rw [exec_wr_cmd]
  cases hd : decodeCommand v with
  | ok c =>
    rw [step_eq_exec_of_decode hin (decode_singleton_eq_ok_iff.mpr ⟨c, hd, rfl⟩), decodeCommand_ok hd, writeCommand_byte]
  | error e =>
    rw [step_eq_rejectWord_of_decode hin (by rw [decode_singleton, hd]; rfl), rejectWord_command_byte hd]

/-- Only a word of the host can be refused, and it is then neither an instruction nor a command byte. -/
theorem step_refused {r : Refusal} (h : step s = .refused r) :
    ∃ (bytes : List Byte) (rest : List HostInput), s.inputs = .word bytes :: rest ∧ bytes.length ≠ 1 ∧
      WellFormed.word bytes = false ∧ r = .notATransaction bytes := by
  cases hin : s.inputs with
  | nil => simp [step, hin] at h
  | cons input rest =>
    cases input with
    | rst => simp [step, hin] at h
    | rstInCommand v => simp [step, hin, abandonCommand] at h
    | word bytes =>
      have hlen : bytes.length ≠ 1 := by
        intro hlen
        obtain ⟨v, rfl⟩ := List.length_eq_one_iff.mp hlen
        exact exec_ne_refused _ _ r ((step_command_byte hin).symm.trans h)
      cases hd : decode bytes with
      | ok i => exact absurd ((step_eq_exec_of_decode hin hd).symm.trans h) (exec_ne_refused i _ r)
      | error e =>
        have hwf := wellFormed_word_eq_false_iff.mpr ⟨e, hd⟩
        exact ⟨bytes, rest, rfl, hlen, hwf, Host.Outcome.refused.inj (h.symm.trans (step_eq_refused hin hlen hwf))⟩

end

/-- Settles O4: what a step does with a word of one byte and with a word that is none, and what it can have refused. -/
theorem stepRefusesOnlyWordsThatAreNoTransaction : Obligations.StepRefusesOnlyWordsThatAreNoTransaction :=
  ⟨fun _ _ _ => step_eq_refused, fun _ _ _ => step_command_byte, fun _ _ => step_refused⟩

end Sys2Proof.Machine
end

section
/-! A command that runs (R102), and what a register says about its marks when all of it is written (R28). -/

namespace Sys2Proof.Machine

theorem exec_command_completes {c : Command} {s : State} (hr : s.roundInRange c = true) (hw : s.operandsWritten c = true) :
    exec c.instr s = .next (commandEffect c (s.startCommand c.byte)).complete :=
  (exec_command c s).trans (runCommand_completes hr hw)

theorem completed_complete (c : Command) (s : State) :
    Claims.completed c (commandEffect c (s.startCommand c.byte)).complete :=
  ⟨(commandEffect_cmd_status c _).1, completed_status c s c.byte⟩

theorem State.readBatch_of_batchWritten {s : State} (h : s.batchWritten = true) (a : Fin 256) :
    s.readBatch a = some (s.batchByte a.val) := by
  obtain ⟨v, hv⟩ := Option.isSome_iff_exists.mp (List.all_eq_true.mp h a.val (List.mem_range.mpr a.isLt))
  rw [State.readBatch, State.batchByte, hv, Option.getD_some]

@[simp] theorem State.readBatch_setBatch (s : State) (f : Nat → Byte) (a : Fin 256) :
    (s.setBatch f).readBatch a = some (f a.val) :=
  s.batchByte_setBatch f a.val a.isLt

@[simp] theorem State.batchWritten_setBatch (s : State) (f : Nat → Byte) : (s.setBatch f).batchWritten = true :=
  List.all_eq_true.mpr fun a ha => by rw [s.batchByte_setBatch f a (List.mem_range.mp ha), Option.isSome_some]

@[simp] theorem State.planeWritten_setPlanes (s : State) (p : Planes) : (s.setPlanes p).planeWritten = true :=
  (State.planeWritten_iff _).mpr fun i => Vector.getElem_replicate i.isLt

theorem State.planeMark_of_planeWritten {s : State} (h : s.planeWritten = true) :
    s.planeMark = Vector.replicate 256 true :=
  Vector.ext fun i hi => (s.planeWritten_iff.mp h ⟨i, hi⟩).trans (Vector.getElem_replicate hi).symm

end Sys2Proof.Machine
end

section
/-! The Bit-Transpose (R65, R66): ENCODE's planes and DECODE's bytes place the same bits, so each takes back the other. -/

namespace Sys2Proof.Machine

/-- R66 as it is written: `BATCH[8k + i/8][i % 8] <- PLANE[i][k]`. -/
theorem decodedByte_getLsbD_plane (p : Planes) (i : Fin 64) (k : Fin 32) :
    (decodedByte p (8 * k.val + i.val / 8)).getLsbD (i.val % 8) = p[i].getLsbD k.val := by
  have hplane : 8 * ((8 * k.val + i.val / 8) % 8) + i.val % 8 = i.val := by omega
  have hlane : (8 * k.val + i.val / 8) / 8 = k.val := by omega
  rw [decodedByte_getLsbD _ _ _ (Nat.mod_lt _ (by decide))]
  simp only [hplane, hlane, Fin.getElem_fin]

/-- R67, at one byte of BATCH. -/
theorem decodedByte_encodedPlanes (s : State) (a : Fin 256) : decodedByte (encodedPlanes s) a.val = s.batchByte a.val := by
  apply BitVec.eq_of_getLsbD_eq
  intro t ht
  have hbit := encodedPlanes_getLsbD s ⟨8 * (a.val % 8) + t, by omega⟩ ⟨a.val / 8, by omega⟩
  have hbyte : 8 * (a.val / 8) + (8 * (a.val % 8) + t) / 8 = a.val := by omega
  have hpos : (8 * (a.val % 8) + t) % 8 = t := by omega
  simp only [State.bit, hbyte, hpos] at hbit
  exact (decodedByte_getLsbD _ _ _ ht).trans hbit

theorem planes_eq_of_getLsbD {p q : Planes} (h : ∀ (i : Fin 64) (k : Fin 32), p[i].getLsbD k.val = q[i].getLsbD k.val) :
    p = q :=
  Vector.ext fun i hi => BitVec.eq_of_getLsbD_eq fun k hk => h ⟨i, hi⟩ ⟨k, hk⟩

/-- R67, for the whole of PLANE. -/
theorem encodedPlanes_setBatch_decodedByte (s : State) (p : Planes) : encodedPlanes (s.setBatch (decodedByte p)) = p := by
  refine planes_eq_of_getLsbD fun i k => ?_
  have hbyte : (s.setBatch (decodedByte p)).batchByte (8 * k.val + i.val / 8) = decodedByte p (8 * k.val + i.val / 8) := by
    rw [State.batchByte, s.batchByte_setBatch _ _ (by omega), Option.getD_some]
  rw [encodedPlanes_getLsbD, State.bit, hbyte, decodedByte_getLsbD_plane]

/-- The state in which ENCODE leaves the unit. -/
def encoded (s : State) : State := (encodeEffect (s.startCommand Command.encode.byte)).complete

/-- The state in which DECODE leaves the unit. -/
def decoded (s : State) : State := (decodeEffect (s.startCommand Command.decode.byte)).complete

theorem exec_encode {s : State} (h : s.batchWritten = true) : exec .encode s = .next (encoded s) :=
  exec_command_completes (c := .encode) rfl h

theorem exec_decode {s : State} (h : s.planeWritten = true) : exec .decode s = .next (decoded s) :=
  exec_command_completes (c := .decode) rfl h

@[simp] theorem encoded_plane (s : State) : (encoded s).plane = encodedPlanes s := encodedPlanes_eq_of_batch rfl

@[simp] theorem encoded_planeWritten (s : State) : (encoded s).planeWritten = true :=
  (s.startCommand Command.encode.byte).planeWritten_setPlanes (encodedPlanes s)

theorem decoded_readBatch (s : State) (a : Fin 256) : (decoded s).readBatch a = some (decodedByte s.plane a.val) :=
  (s.startCommand Command.decode.byte).readBatch_setBatch (decodedByte s.plane) a

@[simp] theorem decoded_batchWritten (s : State) : (decoded s).batchWritten = true :=
  (s.startCommand Command.decode.byte).batchWritten_setBatch (decodedByte s.plane)

theorem encodedPlanes_decoded (s : State) : encodedPlanes (decoded s) = s.plane :=
  encodedPlanes_setBatch_decodedByte (s.startCommand Command.decode.byte) s.plane

/-- Settles O28: ENCODE writes the planes of the batch, and every other field is one it does not touch. -/
theorem encodePlacesEveryBit : Obligations.EncodePlacesEveryBit := by
  refine ⟨by decide, fun s h => ⟨encoded s, exec_encode h, fun i k => ?_, encoded_planeWritten s,
    completed_complete .encode s, fun _ => rfl, ⟨rfl, rfl⟩, rfl, ⟨rfl, rfl⟩, rfl, rfl⟩,
    fun s => commandReadingUnwrittenByteFaults.1 .encode s rfl⟩
  refine ⟨_, State.readBatch_of_batchWritten h _, ?_⟩
  rw [encoded_plane, encodedPlanes_getLsbD, State.bit]

/-- Settles O29: DECODE writes the bytes of the planes, and every other field is one it does not touch. -/
theorem decodePlacesEveryBit : Obligations.DecodePlacesEveryBit :=
  ⟨by decide, fun s h => ⟨decoded s, exec_decode h,
    fun i k => ⟨_, decoded_readBatch s _, decodedByte_getLsbD_plane s.plane i k⟩,
    completed_complete .decode s, ⟨rfl, rfl⟩, ⟨rfl, rfl⟩, rfl, ⟨rfl, rfl⟩, rfl, rfl⟩,
    fun s => commandReadingUnwrittenByteFaults.1 .decode s rfl⟩

/-- Settles O30: each command leaves the operand of the other written, and the two layers take each other back. -/
theorem encodeAndDecodeAreInverse : Obligations.EncodeAndDecodeAreInverse := by
  refine ⟨fun s h => ⟨encoded s, decoded (encoded s), exec_encode h, exec_decode (encoded_planeWritten s), fun a => ?_⟩,
    fun s h => ⟨decoded s, encoded (decoded s), exec_decode h, exec_encode (decoded_batchWritten s), ?_, ?_⟩⟩
  · rw [decoded_readBatch, encoded_plane, decodedByte_encodedPlanes, State.readBatch_of_batchWritten h]
  · rw [encoded_plane, encodedPlanes_decoded]
  · exact (State.planeMark_of_planeWritten (encoded_planeWritten _)).trans (State.planeMark_of_planeWritten h).symm

end Sys2Proof.Machine
end

section
/-! The planes lane by lane (R70, R88): each layer does to a lane what the reference cipher does to a block. -/

namespace Sys2Proof.Machine

theorem lane_eq_iff {p : Planes} {k : Fin 32} {b : Block} :
    lane p k = b ↔ ∀ i : Fin 64, p[i].getLsbD k.val = b.getLsbD i.val := by
  simp only [← lane_getLsbD]
  exact ⟨fun h i => by rw [h], fun h => BitVec.eq_of_getLsbD_eq fun i hi => h ⟨i, hi⟩⟩

/-- Settles O31: bit `i` of both is `bit(k, i)`. -/
theorem laneIsBlockAfterEncode : Obligations.LaneIsBlockAfterEncode := by
  refine fun s h => ⟨encoded s, exec_encode h, fun k => lane_eq_iff.mpr fun i => ?_⟩
  rw [encoded_plane, encodedPlanes_getLsbD, State.bit, blockBitsAreBatchBits]

theorem lane_keyMixed (p : Planes) (rk : Block) (k : Fin 32) : lane (keyMixed p rk) k = lane p k ^^^ rk :=
  lane_eq_iff.mpr fun i => by rw [keyMixed_getLsbD, BitVec.getLsbD_xor, lane_getLsbD]

/-- The nibble of a group is the nibble of the lane that stands there (R81, R88). -/
theorem nibble_eq_extractLsb'_lane (p : Planes) (g : Fin 16) (k : Fin 32) :
    nibble p g k.val = (lane p k).extractLsb' (4 * g.val) 4 := by
  have hlane : ∀ j (hj : j < 4), (lane p k).getLsbD (4 * g.val + j) = (p[4 * g.val + j]'(by omega)).getLsbD k.val :=
    fun j hj => lane_getLsbD p k ⟨4 * g.val + j, by omega⟩
  apply BitVec.eq_of_getLsbD_eq
  intro j hj
  rw [BitVec.getLsbD_extractLsb', decide_eq_true hj, Bool.true_and, hlane j hj, nibble]
  simp only [BitVec.getLsbD_append]
  interval_cases j <;> simp

theorem lane_substituted (p : Planes) (k : Fin 32) : lane (substituted p) k = sBoxLayer (lane p k) :=
  lane_eq_iff.mpr fun i => by
    rw [substituted_getLsbD, nibble_eq_extractLsb'_lane, sBoxLayer, ofBits_getLsbD _ _ i.isLt]

/-- R84's `P` is R93's `Q`. -/
theorem referenceIndex_eq_permutedIndex : ∀ i : Fin 64, referenceIndex i.val = (permutedIndex i).val := by decide

theorem one_shiftLeft_getLsbD (n : Nat) (j : Fin 64) : (1#64 <<< n).getLsbD j.val = decide (n = j.val) := by
  have hlt : n = j.val → n < 64 := fun h => h ▸ j.isLt
  rw [← BitVec.twoPow_eq, BitVec.getLsbD_twoPow]
  simp only [← Bool.decide_and, and_iff_right_of_imp hlt]

/-- Each index of the list puts its bit of `s` into the word, and no other bit changes (R93). -/
theorem foldl_or_shiftLeft_getLsbD (s t : Block) (l : List Nat) (j : Fin 64) :
    (l.foldl (fun t i => t ||| (if s.getLsbD i then 1#64 <<< referenceIndex i else 0#64)) t).getLsbD j.val =
      (t.getLsbD j.val || l.any fun i => s.getLsbD i && decide (referenceIndex i = j.val)) := by
  induction l generalizing t with
  | nil => simp
  | cons i rest ih =>
    have hone : (if s.getLsbD i then 1#64 <<< referenceIndex i else 0#64).getLsbD j.val =
        (s.getLsbD i && decide (referenceIndex i = j.val)) := by
      cases s.getLsbD i with
      | false => simp
      | true => rw [if_pos rfl, one_shiftLeft_getLsbD, Bool.true_and]
    rw [List.foldl_cons, ih, BitVec.getLsbD_or, hone, List.any_cons, Bool.or_assoc]

/-- The reference permutation puts bit `i` at `P(i)` (R84, R93). -/
theorem pLayer_getLsbD_permutedIndex (s : Block) (i : Fin 64) :
    (pLayer s).getLsbD (permutedIndex i).val = s.getLsbD i.val := by
  rw [pLayer, foldl_or_shiftLeft_getLsbD, BitVec.getLsbD_zero, Bool.false_or, Bool.eq_iff_iff, List.any_eq_true]
  simp only [List.mem_range, Bool.and_eq_true, decide_eq_true_eq]
  constructor
  · rintro ⟨j, hj, hbit, hindex⟩
    have hji : (⟨j, hj⟩ : Fin 64) = i :=
      permutedIndex_injective (Fin.ext ((referenceIndex_eq_permutedIndex ⟨j, hj⟩).symm.trans hindex))
    rwa [← hji]
  · exact fun hbit => ⟨i.val, i.isLt, hbit, referenceIndex_eq_permutedIndex i⟩

theorem lane_permutedInto (tmp p : Planes) (k : Fin 32) : lane (permutedInto tmp p) k = pLayer (lane p k) :=
  lane_eq_iff.mpr fun j => by
    obtain ⟨i, rfl⟩ := permutedIndex_surjective j
    rw [permutedInto_getElem, pLayer_getLsbD_permutedIndex, lane_getLsbD]

/-- Settles O46: each command completes, and its planes are those of its layer. -/
theorem roundEngineWorksLaneByLane : Obligations.RoundEngineWorksLaneByLane := fun s hp =>
  ⟨fun hk => ⟨_, exec_command_completes (c := .keymix) rfl (Bool.and_eq_true_iff.mpr ⟨hp, hk⟩),
      lane_keyMixed s.plane (roundKey s.key)⟩,
    ⟨_, exec_command_completes (c := .sbox) rfl hp, lane_substituted s.plane⟩,
    ⟨_, exec_command_completes (c := .player) rfl hp, lane_permutedInto s.tmp s.plane⟩⟩

end Sys2Proof.Machine
end

section
/-! The S-box (R71) and the function `KS` (R72, R74): its three steps bit by bit and byte by byte. -/

namespace Sys2Proof.Machine

theorem sbox_injective : Function.Injective sbox := by
  unfold Function.Injective
  decide

/-- Settles O33: the table is evaluated at its sixteen indices, and an injection of a finite
type into itself is a bijection. -/
theorem sboxIsTheTableAndABijection : Obligations.SboxIsTheTableAndABijection :=
  ⟨by decide, Finite.injective_iff_bijective.mp sbox_injective⟩

/-- The word that step 3 of the key schedule XORs into the key: `r[4:0]` at bits 19..15 (R72). -/
def counterWord (r : Round) : Key := (r.extractLsb' 0 5).setWidth 80 <<< 15

theorem injectRound_eq (t : Key) (r : Round) : injectRound t r = t ^^^ counterWord r := rfl

theorem counterWord_getLsbD (r : Round) (j : Nat) :
    (counterWord r).getLsbD j = (decide (15 ≤ j ∧ j ≤ 19) && r.getLsbD (j - 15)) := by
  by_cases h : 15 ≤ j ∧ j ≤ 19
  · have h80 : j < 80 := by omega
    have hlow : ¬ j < 15 := by omega
    have h5 : j - 15 < 5 := by omega
    simp [counterWord, h, h80, hlow, h5]
  · by_cases hlow : j < 15
    · simp [counterWord, h, hlow]
    · have h5 : ¬ j - 15 < 5 := by omega
      simp [counterWord, h, h5]

theorem substituteTop_getLsbD (t : Key) (j : Nat) :
    (substituteTop t).getLsbD j = if 76 ≤ j then (sbox (t.extractLsb' 76 4)).getLsbD (j - 76) else t.getLsbD j := by
  rw [substituteTop, BitVec.getLsbD_append]
  by_cases h : j < 76
  · simp [h]
  · simp [h, not_lt.mp h]

/-- The rotation brings bits 18..15 of the key to the top nibble (R72). -/
theorem rotr80_topNibble (k : Key) : (rotr80 k 19).extractLsb' 76 4 = k.extractLsb' 15 4 := by
  apply BitVec.eq_of_getLsbD_eq
  intro i hi
  have hsrc : (76 + i + 19) % 80 = 15 + i := by omega
  rw [BitVec.getLsbD_extractLsb', BitVec.getLsbD_extractLsb', rotr80_getLsbD _ _ _ (by omega) (by decide), hsrc]

/-- `KS` bit by bit, for every round number a register can hold (R72). -/
theorem keySchedule_getLsbD (k : Key) (r : Round) {j : Nat} (hj : j < 80) :
    (keySchedule k r).getLsbD j =
      ((if 76 ≤ j then (sbox (k.extractLsb' 15 4)).getLsbD (j - 76) else k.getLsbD ((j + 19) % 80)) ^^
        (decide (15 ≤ j ∧ j ≤ 19) && r.getLsbD (j - 15))) := by
  rw [keySchedule, injectRound_eq, BitVec.getLsbD_xor, counterWord_getLsbD, substituteTop_getLsbD, Config.rot,
    rotr80_topNibble, rotr80_getLsbD _ _ _ hj (by decide)]

/-- Settles O34: the top nibble and the counter's five bits are apart, so each bit is changed by one step at most. -/
theorem keyScheduleBitByBit : Obligations.KeyScheduleBitByBit := by
  intro k r _ _ j hj
  rw [keySchedule_getLsbD k r hj]
  by_cases htop : 76 ≤ j
  · have hmid : ¬ (15 ≤ j ∧ j ≤ 19) := by omega
    simp [htop, hmid]
  · by_cases hmid : 15 ≤ j ∧ j ≤ 19
    · simp [htop, hmid]
    · simp [htop, hmid]

theorem byteAt_xor {n : Nat} (x y : BitVec n) (b : Nat) : byteAt (x ^^^ y) b = byteAt x b ^^^ byteAt y b :=
  BitVec.extractLsb'_xor

theorem extractLsb'_byteAt {n : Nat} (x : BitVec n) (b : Nat) {i w : Nat} (h : i + w ≤ 8) :
    (byteAt x b).extractLsb' i w = x.extractLsb' (8 * b + i) w := by
  apply BitVec.eq_of_getLsbD_eq
  intro t ht
  rw [BitVec.getLsbD_extractLsb', BitVec.getLsbD_extractLsb', byteAt_getLsbD _ _ _ (by omega), Nat.add_assoc]

/-- Step 2 changes the top byte only, and there the high nibble (R74). -/
theorem byteAt_substituteTop (t : Key) {j : Nat} (hj : j < 10) :
    byteAt (substituteTop t) j =
      if j = 9 then sbox ((byteAt t 9).extractLsb' 4 4) ++ (byteAt t 9).extractLsb' 0 4 else byteAt t j := by
  apply BitVec.eq_of_getLsbD_eq
  intro i hi
  rw [byteAt_getLsbD _ _ _ hi, substituteTop_getLsbD]
  by_cases h9 : j = 9
  · subst h9
    rw [if_pos rfl, extractLsb'_byteAt t 9 (by decide), BitVec.getLsbD_append]
    by_cases h4 : i < 4
    · have hlow : ¬ 76 ≤ 8 * 9 + i := by omega
      simp [h4, hlow, byteAt_getLsbD _ _ _ hi]
    · have hhigh : 76 ≤ 8 * 9 + i := by omega
      have hindex : 8 * 9 + i - 76 = i - 4 := by omega
      rw [if_pos hhigh, if_neg h4, hindex]
  · rw [if_neg h9, if_neg (by omega), byteAt_getLsbD _ _ _ hi]

/-- The counter word in bytes: `trunc_8(r << 7)` in byte 1 and `r >> 1` in byte 2 (R74). For the second, `r[5]` has
to be 0. -/
theorem byteAt_counterWord {r : Round} (hr : r.toNat ≤ 31) (j : Nat) :
    byteAt (counterWord r) j =
      if j = 1 then r.setWidth 8 <<< 7 else if j = 2 then r.setWidth 8 >>> 1 else 0#8 := by
  have hhigh : ∀ i, 5 ≤ i → r.getLsbD i = false := fun i hi => by
    have hlt : r.toNat < 2 ^ i := (Nat.lt_of_le_of_lt hr (by decide)).trans_le (Nat.pow_le_pow_right (by decide) hi)
    rw [← BitVec.testBit_toNat, Nat.testBit_eq_false_of_lt hlt]
  apply BitVec.eq_of_getLsbD_eq
  intro i hi
  rw [byteAt_getLsbD _ _ _ hi, counterWord_getLsbD]
  by_cases h1 : j = 1
  · have hbit : 8 * j + i - 15 = i - 7 := by omega
    have hrange : (15 ≤ 8 * j + i ∧ 8 * j + i ≤ 19) ↔ 7 ≤ i := by omega
    simp only [if_pos h1, hbit, hrange]
    by_cases h7 : 7 ≤ i
    · simp [h7, not_lt.mpr h7, hi]
    · simp [h7, not_le.mp h7]
  · by_cases h2 : j = 2
    · have hbit : 8 * j + i - 15 = 1 + i := by omega
      have hrange : (15 ≤ 8 * j + i ∧ 8 * j + i ≤ 19) ↔ i < 4 := by omega
      simp only [if_neg h1, if_pos h2, hbit, hrange]
      by_cases h4 : i < 4
      · simp [h4, show 1 + i < 8 by omega]
      · simp [h4, hhigh (1 + i) (by omega)]
    · have hrange : ¬ (15 ≤ 8 * j + i ∧ 8 * j + i ≤ 19) := by omega
      simp [h1, h2, hrange]

/-- Settles O35: a byte of `KS` is the byte of the rotated key, changed by the two steps byte by byte. -/
theorem keyScheduleByteFormAgrees : Obligations.KeyScheduleByteFormAgrees := by
  intro k r _ hr j
  rw [keySchedule, injectRound_eq, byteAt_xor, byteAt_substituteTop _ j.isLt, byteAt_counterWord hr, Config.rot]
  simp only [keyScheduleByte]
  by_cases h9 : j.val = 9
  · simp [h9]
  · by_cases h1 : j.val = 1
    · simp [h1]
    · by_cases h2 : j.val = 2
      · simp [h2]
      · simp [h9, h1, h2]

end Sys2Proof.Machine
end

section
/-! KSADV (R73), and that the key and the data meet in key mixing only (R78). -/

namespace Sys2Proof.Machine

/-- KSADV and ROUND need a round number in 1..31 (R101). -/
theorem State.roundInRange_iff (s : State) {c : Command} (hc : c = .ksadv ∨ c = .round) :
    s.roundInRange c = true ↔ 1 ≤ s.round.toNat ∧ s.round.toNat ≤ 31 := by
  rcases hc with rfl | rfl <;> exact decide_eq_true_iff

theorem State.roundInRange_eq_false_iff (s : State) {c : Command} (hc : c = .ksadv ∨ c = .round) :
    s.roundInRange c = false ↔ s.round.toNat = 0 ∨ 32 ≤ s.round.toNat := by
  rw [← Bool.not_eq_true, s.roundInRange_iff hc]
  omega

@[simp] theorem State.keyWritten_setKey (s : State) (k : Key) : (s.setKey k).keyWritten = true :=
  (State.keyWritten_iff _).mpr fun j => Vector.getElem_replicate j.isLt

/-- The state in which KSADV leaves the unit. -/
def advanced (s : State) : State := (keyScheduleEffect s.round (s.startCommand Command.ksadv.byte)).complete

theorem exec_ksadv {s : State} (hr : 1 ≤ s.round.toNat ∧ s.round.toNat ≤ 31) (hw : s.keyWritten = true) :
    exec .ksadv s = .next (advanced s) :=
  exec_command_completes (c := .ksadv) ((s.roundInRange_iff (.inl rfl)).mpr hr) hw

@[simp] theorem advanced_keyWritten (s : State) : (advanced s).keyWritten = true :=
  (s.startCommand Command.ksadv.byte).keyWritten_setKey (keySchedule s.key s.round)

/-- Settles O36: KSADV writes the key, and every other field is one it does not touch. -/
theorem ksadvAdvancesTheKey : Obligations.KsadvAdvancesTheKey := by
  refine ⟨by decide, fun s h1 h31 hw => ⟨advanced s, exec_ksadv ⟨h1, h31⟩ hw, rfl, advanced_keyWritten s,
    completed_complete .ksadv s, fun _ => rfl, ⟨rfl, rfl⟩, rfl, ⟨rfl, rfl⟩, rfl, rfl⟩,
    fun s hr => ?_, fun s h1 h31 hw => ?_⟩
  · exact (exec_command .ksadv s).trans (runCommand_outOfRange ((s.roundInRange_eq_false_iff (.inl rfl)).mpr hr))
  · exact commandReadingUnwrittenByteFaults.1 .ksadv s ((s.roundInRange_iff (.inl rfl)).mpr ⟨h1, h31⟩) hw

/-- A command whose effect leaves KEY as it is leaves it so when it is executed, with an error or without (R102, R103). -/
theorem sameKey_of_exec_command {c : Command} {s t : State} (heffect : ∀ u, Claims.sameKey u (commandEffect c u))
    (h : exec c.instr s = .next t) : Claims.sameKey s t := by
  rcases exec_command_next h with ⟨_, _, rfl⟩ | ⟨_, rfl⟩
  · exact heffect (s.startCommand c.byte)
  · exact ⟨rfl, rfl⟩

theorem sameKey_of_exec_rd {a : PortAddr} {s t : State} (h : exec (.rd a) s = .next t) : Claims.sameKey s t := by
  rcases execRd_cases a s with ⟨v, _, hx⟩ | ⟨_, hx⟩ <;> rw [exec, hx] at h <;> cases h
  rcases noteRead_eq s a with hn | hn <;> rw [hn] <;> exact ⟨rfl, rfl⟩

/-- The effects of the data path leave KEY as it is (R78). -/
theorem commandEffect_sameKey {c : Command} (hc : c ∈ [Command.nop, .encode, .decode, .keymix, .sbox, .player])
    (u : State) : Claims.sameKey u (commandEffect c u) := by
  cases c with
  | nop => exact ⟨rfl, rfl⟩
  | encode => exact ⟨rfl, rfl⟩
  | decode => exact ⟨rfl, rfl⟩
  | keymix => exact ⟨rfl, rfl⟩
  | sbox => exact ⟨rfl, rfl⟩
  | player =>
    rw [commandEffect, playerEffect_eq]
    exact ⟨rfl, rfl⟩
  | ksadv => simp at hc
  | round => simp at hc
  | encrypt => simp at hc

/-- The command `c` neither reads nor writes what the overwriting `f` of the state replaces: it checks the same, and its three
stages go on from the overwritten state as from the state itself (R102). -/
structure IsBlindTo (c : Command) (f : State → State) : Prop where
  roundInRange : ∀ s, (f s).roundInRange c = s.roundInRange c
  operandsWritten : ∀ s, (f s).operandsWritten c = s.operandsWritten c
  startCommand : ∀ s v, (f s).startCommand v = f (s.startCommand v)
  effect : ∀ s, commandEffect c (f s) = f (commandEffect c s)
  complete : ∀ s, (f s).complete = f s.complete
  raiseError : ∀ s e, (f s).raiseError e = f (s.raiseError e)

theorem IsBlindTo.exec {c : Command} {f : State → State} {s t : State} (hf : IsBlindTo c f)
    (h : exec c.instr s = .next t) : exec c.instr (f s) = .next (f t) := by
  rw [exec_command]
  rcases exec_command_next h with ⟨hr, hw, rfl⟩ | ⟨hr, rfl⟩
  · rw [runCommand_completes ((hf.roundInRange s).trans hr) ((hf.operandsWritten s).trans hw), hf.startCommand, hf.effect,
      hf.complete]
  · rw [runCommand_outOfRange ((hf.roundInRange s).trans hr), hf.startCommand, hf.raiseError]

/-- The state with other contents of BATCH and PLANE. -/
def State.withData (m : Memory) (p : Planes) (w : Vector Bool 256) (s : State) : State :=
  { s with batch := m, plane := p, planeMark := w }

/-- The state with other contents of KEY. -/
def State.withKey (k : Key) (w : Vector Bool 10) (s : State) : State := { s with key := k, keyMark := w }

theorem ksadv_isBlindTo_withData (m : Memory) (p : Planes) (w : Vector Bool 256) :
    IsBlindTo .ksadv (State.withData m p w) :=
  ⟨fun _ => rfl, fun _ => rfl, fun _ _ => rfl, fun _ => rfl, fun _ => rfl, fun _ _ => rfl⟩

/-- The data path but for key mixing does not see KEY (R78). -/
theorem isBlindTo_withKey {c : Command} (hc : c ∈ [Command.nop, .encode, .decode, .sbox, .player]) (k : Key)
    (w : Vector Bool 10) : IsBlindTo c (State.withKey k w) := by
  simp only [List.mem_cons, List.not_mem_nil, or_false] at hc
  rcases hc with rfl | rfl | rfl | rfl | rfl <;>
    exact ⟨fun _ => rfl, fun _ => rfl, fun _ _ => rfl, fun _ => rfl, fun _ => rfl, fun _ _ => rfl⟩

/-- Settles O37: from what the effects of the commands leave of KEY, and from what each command is blind to. -/
theorem keyAndDataPathMeetOnlyInKeyMixing : Obligations.KeyAndDataPathMeetOnlyInKeyMixing := by
  refine ⟨fun s t i hi h => ?_, fun s t h => ?_, fun s t m p w h => (ksadv_isBlindTo_withData m p w).exec h,
    fun s t i k w hi h => ?_⟩
  · rcases hi with hi | ⟨a, rfl⟩
    · obtain ⟨c, hc, rfl⟩ := List.mem_map (f := Command.instr)
        (l := [.nop, .encode, .decode, .keymix, .sbox, .player]) |>.mp hi
      exact sameKey_of_exec_command (commandEffect_sameKey hc) h
    · exact sameKey_of_exec_rd h
  · rcases exec_command_next (c := .ksadv) h with ⟨_, _, rfl⟩ | ⟨_, rfl⟩ <;> exact ⟨fun _ => rfl, rfl, rfl⟩
  · obtain ⟨c, hc, rfl⟩ := List.mem_map (f := Command.instr)
      (l := [.nop, .encode, .decode, .sbox, .player]) |>.mp hi
    exact (isBlindTo_withKey hc k w).exec h

end Sys2Proof.Machine
end

section
/-! A command that completes (R102): its effect neither reads nor writes CMD and STATUS, so the state it leaves is its effect
on the state it found, with the two of them set. -/

namespace Sys2Proof.Machine

/-- The state with other contents of CMD and STATUS. -/
def State.withCommand (v st : Byte) (s : State) : State := { s with cmd := v, status := st }

theorem sequencerStep_withCommand (v st : Byte) (s : State) :
    sequencerStep (s.withCommand v st) = (sequencerStep s).withCommand v st := by
  have hphase : (s.withCommand v st).phase = s.phase := rfl
  unfold sequencerStep
  rw [hphase]
  split <;> rfl

theorem runSequencer_withCommand (n : Nat) (v st : Byte) (s : State) :
    runSequencer n (s.withCommand v st) = (runSequencer n s).withCommand v st := by
  induction n generalizing s with
  | zero => rfl
  | succ n ih => rw [runSequencer, sequencerStep_withCommand, ih, runSequencer]

theorem commandEffect_withCommand (c : Command) (v st : Byte) (s : State) :
    commandEffect c (s.withCommand v st) = (commandEffect c s).withCommand v st := by
  cases c with
  | encrypt => exact runSequencer_withCommand encryptPhases v st { s with phase := .enc }
  | _ => rfl

/-- The state in which the command `c` leaves the unit when it completes (R102). -/
def afterCommand (c : Command) (s : State) : State := (commandEffect c s).withCommand c.byte 0x01#8

theorem complete_commandEffect_startCommand (c : Command) (s : State) :
    (commandEffect c (s.startCommand c.byte)).complete = afterCommand c s := by
  have hstart : s.startCommand c.byte = s.withCommand c.byte statusCleared := rfl
  have hdone : statusWithDone statusCleared = 0x01#8 := rfl
  rw [hstart, commandEffect_withCommand, afterCommand, ← hdone]
  rfl

theorem exec_eq_afterCommand {c : Command} {s : State} (hr : s.roundInRange c = true) (hw : s.operandsWritten c = true) :
    exec c.instr s = .next (afterCommand c s) := by
  rw [exec_command_completes hr hw, complete_commandEffect_startCommand]

theorem completed_afterCommand (c : Command) (s : State) : Claims.completed c (afterCommand c s) := ⟨rfl, rfl⟩

@[simp] theorem State.withCommand_withCommand (s : State) (v st w su : Byte) :
    (s.withCommand w su).withCommand v st = s.withCommand v st := rfl

theorem sameBatch_of_batch {s t : State} (h : t.batch = s.batch) : Claims.sameBatch s t := fun a => by
  rw [State.readBatch, State.readBatch, h]

theorem State.planeWritten_of_planeMark {s : State} (h : s.planeMark = Vector.replicate 256 true) :
    s.planeWritten = true :=
  s.planeWritten_iff.mpr fun i => by simp [h]

theorem State.keyWritten_of_keyMark {s : State} (h : s.keyMark = Vector.replicate 10 true) : s.keyWritten = true :=
  s.keyWritten_iff.mpr fun j => by simp [h]

end Sys2Proof.Machine
end

section
/-! KEYMIX (R79, R80): the planes it leaves, in the three readings of the rule. -/

namespace Sys2Proof.Machine

theorem exec_keymix {s : State} (hp : s.planeWritten = true) (hk : s.roundKeyWritten = true) :
    exec .keymix s = .next (afterCommand .keymix s) :=
  exec_eq_afterCommand (c := .keymix) rfl (Bool.and_eq_true_iff.mpr ⟨hp, hk⟩)

@[simp] theorem afterKeymix_planeWritten (s : State) : (afterCommand .keymix s).planeWritten = true :=
  State.planeWritten_of_planeMark rfl

theorem keyMixed_getElem (p : Planes) (rk : Block) (i : Fin 64) :
    (keyMixed p rk)[i] = p[i] ^^^ rep32 (rk.getLsbD i.val) :=
  tabulate_getElem _ i.val i.isLt

/-- R79 as it is written, with the round key as bytes of KEY (R20). -/
theorem keyMixed_roundKey_getElem (p : Planes) (k : Key) (i : Fin 64) :
    (keyMixed p (roundKey k))[i] = p[i] ^^^ rep32 ((byteAt k (i.val / 8 + 2)).getLsbD (i.val % 8)) := by
  rw [keyMixed_getElem, roundKey_getLsbD_eq_byteAt k i.isLt]

/-- XOR with equal key bits undoes itself (R79). -/
theorem keyMixed_keyMixed (p : Planes) (rk : Block) : keyMixed (keyMixed p rk) rk = p := by
  have hplane : ∀ i : Fin 64, (keyMixed (keyMixed p rk) rk)[i] = p[i] := fun i => by
    rw [keyMixed_getElem, keyMixed_getElem, BitVec.xor_assoc, BitVec.xor_self, BitVec.xor_zero]
  exact Vector.ext fun i hi => hplane ⟨i, hi⟩

/-- XOR with a replicated bit is the complement under it (R80). -/
theorem xor_rep32 (x : Plane) (b : Bool) : x ^^^ rep32 b = if b then ~~~x else x := by
  cases b with
  | false => exact BitVec.xor_zero
  | true => exact BitVec.xor_allOnes

/-- Settles O38: KEYMIX writes the planes, and every other field is one it does not touch. -/
theorem keymixXorsTheReplicatedKeyBits : Obligations.KeymixXorsTheReplicatedKeyBits :=
  ⟨by decide, fun s hp hk => ⟨afterCommand .keymix s, exec_keymix hp hk, keyMixed_roundKey_getElem s.plane s.key,
    afterKeymix_planeWritten s, completed_afterCommand .keymix s, sameBatch_of_batch rfl, ⟨rfl, rfl⟩, rfl, ⟨rfl, rfl⟩,
    rfl, rfl⟩, fun s h => commandReadingUnwrittenByteFaults.1 .keymix s rfl (Bool.and_eq_false_iff.mpr h)⟩

/-- Settles O39: KEY is as before at the second KEYMIX, so the two mix in one round key. -/
theorem keymixTwiceRestoresThePlanes : Obligations.KeymixTwiceRestoresThePlanes := fun s hp hk =>
  ⟨afterCommand .keymix s, afterCommand .keymix (afterCommand .keymix s), exec_keymix hp hk,
    exec_keymix (afterKeymix_planeWritten s) hk, keyMixed_keyMixed s.plane (roundKey s.key),
    (State.planeMark_of_planeWritten (afterKeymix_planeWritten _)).trans (State.planeMark_of_planeWritten hp).symm⟩

/-- Settles O40: the planes of O38, with the XOR read as a complement. -/
theorem keymixIsTheConditionalComplement : Obligations.KeymixIsTheConditionalComplement := fun s hp hk =>
  ⟨afterCommand .keymix s, exec_keymix hp hk,
    fun i => (keyMixed_roundKey_getElem s.plane s.key i).trans (xor_rep32 _ _)⟩

end Sys2Proof.Machine
end

section
/-! SBOX (R81 to R83): the nibbles it leaves, and the two ways of computing the S-box on whole planes, which are two ways of
computing its four output bits on one nibble. -/

namespace Sys2Proof.Machine

theorem exec_sbox {s : State} (h : s.planeWritten = true) : exec .sbox s = .next (afterCommand .sbox s) :=
  exec_eq_afterCommand (c := .sbox) rfl h

@[simp] theorem afterSbox_planeWritten (s : State) : (afterCommand .sbox s).planeWritten = true :=
  State.planeWritten_of_planeMark rfl

/-- Bit `j` of the nibble of a group is the bit of its plane `j` (R81). -/
theorem nibble_getLsbD (p : Planes) (g : Fin 16) (k : Fin 32) (j : Fin 4) :
    (nibble p g k.val).getLsbD j.val = p[4 * g.val + j.val].getLsbD k.val := by
  rw [nibble_eq_extractLsb'_lane, BitVec.getLsbD_extractLsb', decide_eq_true j.isLt, Bool.true_and]
  exact lane_getLsbD p k ⟨4 * g.val + j.val, by omega⟩

/-- The substitution layer, plane by plane of a group (R81). -/
theorem substituted_getLsbD_group (p : Planes) (g : Fin 16) (k : Fin 32) (j : Fin 4) :
    ((substituted p)[4 * g.val + j.val]).getLsbD k.val = (sbox (nibble p g k.val)).getLsbD j.val := by
  have hgroup : (4 * g.val + j.val) / 4 = g.val := by omega
  have hbit : (4 * g.val + j.val) % 4 = j.val := by omega
  refine (substituted_getLsbD p ⟨4 * g.val + j.val, by omega⟩ k).trans ?_
  simp only [hgroup, hbit, Fin.eta]

theorem nibble_substituted (p : Planes) (g : Fin 16) (k : Fin 32) :
    nibble (substituted p) g k.val = sbox (nibble p g k.val) :=
  BitVec.eq_of_getLsbD_eq fun j hj =>
    (nibble_getLsbD (substituted p) g k ⟨j, hj⟩).trans (substituted_getLsbD_group p g k ⟨j, hj⟩)

/-- Settles O41: SBOX writes the planes, and every other field is one it does not touch. -/
theorem sboxSubstitutesEveryNibble : Obligations.SboxSubstitutesEveryNibble :=
  ⟨by decide, fun s h => ⟨afterCommand .sbox s, exec_sbox h, nibble_substituted s.plane, afterSbox_planeWritten s,
    completed_afterCommand .sbox s, sameBatch_of_batch rfl, ⟨rfl, rfl⟩, rfl, ⟨rfl, rfl⟩, rfl, rfl⟩,
    fun s => commandReadingUnwrittenByteFaults.1 .sbox s rfl⟩

/-- The bits of a nibble as they stand in the four planes of its group (R81). -/
theorem nibble_bits (p : Planes) (g : Fin 16) (k : Fin 32) :
    (nibble p g k.val).getLsbD 0 = p[4 * g.val].getLsbD k.val ∧
    (nibble p g k.val).getLsbD 1 = p[4 * g.val + 1].getLsbD k.val ∧
    (nibble p g k.val).getLsbD 2 = p[4 * g.val + 2].getLsbD k.val ∧
    (nibble p g k.val).getLsbD 3 = p[4 * g.val + 3].getLsbD k.val :=
  ⟨nibble_getLsbD p g k 0, nibble_getLsbD p g k 1, nibble_getLsbD p g k 2, nibble_getLsbD p g k 3⟩

/-- Four words are the planes of a substituted group when in every lane they hold the bits of the S-box (R81). -/
theorem substituted_group_eq {p : Planes} {g : Fin 16} {y0 y1 y2 y3 : Plane}
    (h : ∀ k : Fin 32,
      (sbox (nibble p g k.val)).getLsbD 0 = y0.getLsbD k.val ∧
      (sbox (nibble p g k.val)).getLsbD 1 = y1.getLsbD k.val ∧
      (sbox (nibble p g k.val)).getLsbD 2 = y2.getLsbD k.val ∧
      (sbox (nibble p g k.val)).getLsbD 3 = y3.getLsbD k.val) :
    (substituted p)[4 * g.val] = y0 ∧ (substituted p)[4 * g.val + 1] = y1 ∧
    (substituted p)[4 * g.val + 2] = y2 ∧ (substituted p)[4 * g.val + 3] = y3 := by
  have hplane (j : Fin 4) {y : Plane} (hy : ∀ k : Fin 32, (sbox (nibble p g k.val)).getLsbD j.val = y.getLsbD k.val) :
      (substituted p)[4 * g.val + j.val] = y :=
    BitVec.eq_of_getLsbD_eq fun k hk => (substituted_getLsbD_group p g ⟨k, hk⟩ j).trans (hy ⟨k, hk⟩)
  obtain ⟨h0, h1, h2, h3⟩ := by simpa only [forall_and] using h
  exact ⟨hplane 0 h0, hplane 1 h1, hplane 2 h2, hplane 3 h3⟩

/-- R82's polynomials, on the bits of one nibble. -/
theorem sbox_eq_polynomials : ∀ x : BitVec 4,
    let x0 := x.getLsbD 0
    let x1 := x.getLsbD 1
    let x2 := x.getLsbD 2
    let x3 := x.getLsbD 3
    (sbox x).getLsbD 0 = (x0 ^^ x2 ^^ (x1 && x2) ^^ x3) ∧
    (sbox x).getLsbD 1 =
      (x1 ^^ x3 ^^ (x1 && x3) ^^ (x2 && x3) ^^ (x0 && x1 && x2) ^^ (x0 && x1 && x3) ^^ (x0 && x2 && x3)) ∧
    (sbox x).getLsbD 2 =
      (true ^^ x2 ^^ x3 ^^ (x0 && x1) ^^ (x0 && x3) ^^ (x1 && x3) ^^ (x0 && x1 && x3) ^^ (x0 && x2 && x3)) ∧
    (sbox x).getLsbD 3 =
      (true ^^ x0 ^^ x1 ^^ x3 ^^ (x1 && x2) ^^ (x0 && x1 && x2) ^^ (x0 && x1 && x3) ^^ (x0 && x2 && x3)) := by
  decide

/-- R83's gates, on the bits of one nibble. -/
theorem sbox_eq_netlist : ∀ x : BitVec 4,
    let x0 := x.getLsbD 0
    let x1 := x.getLsbD 1
    let x2 := x.getLsbD 2
    let x3 := x.getLsbD 3
    (sbox x).getLsbD 0 = (x0 ^^ x3 ^^ (x2 && !x1)) ∧
    (sbox x).getLsbD 1 = (x1 ^^ x3 ^^ (x3 && (x1 ^^ x2) && !x0) ^^ (x0 && x1 && x2)) ∧
    (sbox x).getLsbD 2 = !(x2 ^^ (x0 && x1) ^^ (x3 && ((!x0 && !x1) ^^ (x0 && x2)))) ∧
    (sbox x).getLsbD 3 = !(x0 ^^ x1 ^^ x3 ^^ (!x0 && x1 && x2) ^^ (x0 && x3 && (x1 ^^ x2))) := by
  decide

theorem plane_allOnes_getLsbD (k : Fin 32) : (0xFFFFFFFF#32).getLsbD k.val = true :=
  rep32_getLsbD true k.val k.isLt

theorem plane_not_getLsbD (x : Plane) (k : Fin 32) : (~~~x).getLsbD k.val = !x.getLsbD k.val := by
  rw [BitVec.getLsbD_not, decide_eq_true k.isLt, Bool.true_and]

/-- Settles O42: in every lane the four words hold the polynomials of the nibble's bits. -/
theorem sboxPlanesAreTheAlgebraicNormalForm : Obligations.SboxPlanesAreTheAlgebraicNormalForm := fun s h =>
  ⟨afterCommand .sbox s, exec_sbox h, fun g => substituted_group_eq (p := s.plane) fun k => by
    simpa only [BitVec.getLsbD_xor, BitVec.getLsbD_and, plane_allOnes_getLsbD, ← nibble_bits s.plane g k]
      using sbox_eq_polynomials (nibble s.plane g k.val)⟩

/-- Settles O43: in every lane the gates of the four words compute those of the nibble's bits. -/
theorem sboxPlanesAreTheNetlist : Obligations.SboxPlanesAreTheNetlist := fun s h =>
  ⟨afterCommand .sbox s, exec_sbox h, fun g => substituted_group_eq (p := s.plane) fun k => by
    simpa only [BitVec.getLsbD_xor, BitVec.getLsbD_and, plane_not_getLsbD, ← nibble_bits s.plane g k]
      using sbox_eq_netlist (nibble s.plane g k.val)⟩

end Sys2Proof.Machine
end

section
/-! PLAYER (R84 to R86): the planes it leaves, and the order of its permutation. Where a proof reads the fields of the state that
PLAYER or ROUND leaves, the permuted planes are generalised first: comparing two states must not run the permutation. -/

namespace Sys2Proof.Machine

theorem exec_player {s : State} (h : s.planeWritten = true) : exec .player s = .next (afterCommand .player s) :=
  exec_eq_afterCommand (c := .player) rfl h

/-- What PLAYER leaves of each register (R84). -/
theorem afterPlayer_eq (s : State) :
    afterCommand .player s =
      { s with
        tmp := permutedInto s.tmp s.plane
        plane := permutedInto s.tmp s.plane
        planeMark := Vector.replicate 256 true
        cmd := Command.player.byte
        status := 0x01#8 } := by
  simp only [afterCommand, commandEffect, playerEffect_eq, State.withCommand]

@[simp] theorem afterPlayer_plane (s : State) : (afterCommand .player s).plane = permutedInto s.tmp s.plane := rfl

@[simp] theorem afterPlayer_planeWritten (s : State) : (afterCommand .player s).planeWritten = true :=
  State.planeWritten_of_planeMark rfl

/-- Settles O44: PLAYER writes the planes and TMP, and every other field is one it does not touch. -/
theorem playerMovesEveryPlane : Obligations.PlayerMovesEveryPlane := by
  refine ⟨by decide, fun s h => ⟨_, exec_player h, ?_⟩, fun s => commandReadingUnwrittenByteFaults.1 .player s rfl⟩
  have hplane := permutedInto_getElem s.tmp s.plane
  rw [afterPlayer_eq]
  generalize permutedInto s.tmp s.plane = p at hplane ⊢
  exact ⟨hplane, rfl, State.planeWritten_of_planeMark rfl, ⟨rfl, rfl⟩, sameBatch_of_batch rfl, ⟨rfl, rfl⟩, rfl, rfl, rfl,
    rfl⟩

/-- `P` rotates the three base-4 digits of an index, so three times is the identity (R85). -/
theorem permutedIndex_three (i : Fin 64) : permutedIndex (permutedIndex (permutedIndex i)) = i :=
  Fin.ext (by simp only [permutedIndex]; omega)

/-- Three permutations restore the planes, whatever TMP holds before each of them (R26, R85). -/
theorem permutedInto_three (x y z p : Planes) : permutedInto z (permutedInto y (permutedInto x p)) = p := by
  have hplane : ∀ i : Fin 64, (permutedInto z (permutedInto y (permutedInto x p)))[i] = p[i] := fun i => by
    conv_lhs => rw [← permutedIndex_three i]
    rw [permutedInto_getElem, permutedInto_getElem, permutedInto_getElem]
  exact Vector.ext fun i hi => hplane ⟨i, hi⟩

/-- PLAYER three times restores PLANE (R85). -/
theorem afterPlayer_three {s : State} (h : s.planeWritten = true) :
    Claims.samePlanes s (afterCommand .player (afterCommand .player (afterCommand .player s))) := by
  refine ⟨?_, ?_⟩
  · rw [afterPlayer_plane, afterPlayer_plane, afterPlayer_plane, permutedInto_three]
  · rw [State.planeMark_of_planeWritten h, State.planeMark_of_planeWritten (afterPlayer_planeWritten _)]

/-- Settles O45: from the digits of an index, and PLAYER three times is `P` three times. -/
theorem permutationHasOrderThreeAndIsTheReferencePermutation :
    Obligations.PermutationHasOrderThreeAndIsTheReferencePermutation :=
  ⟨⟨fun _ _ => permutedIndex_injective, permutedIndex_surjective⟩,
    fun j => ⟨⟨4 * (j.val % 16) + j.val / 16, by omega⟩, rfl, Fin.ext (by simp only [permutedIndex]; omega)⟩,
    fun i => (referenceIndex_eq_permutedIndex i).symm, permutedIndex_three,
    fun _ h => ⟨_, _, _, exec_player h, exec_player (afterPlayer_planeWritten _), exec_player (afterPlayer_planeWritten _),
      afterPlayer_three h⟩⟩

end Sys2Proof.Machine
end

section
/-! ROUND (R87 to R90): one round of the reference cipher in every lane, and its sub-steps one after another. -/

namespace Sys2Proof.Machine

theorem exec_round {s : State} (hr : 1 ≤ s.round.toNat ∧ s.round.toNat ≤ 31) (hp : s.planeWritten = true)
    (hk : s.keyWritten = true) : exec .round s = .next (afterCommand .round s) :=
  exec_eq_afterCommand (c := .round) ((s.roundInRange_iff (.inr rfl)).mpr hr) (Bool.and_eq_true_iff.mpr ⟨hp, hk⟩)

/-- The three layers on a lane, with the key as it was before the round (R88, R90). -/
theorem lane_roundPlanes (s : State) (k : Fin 32) :
    lane (roundPlanes s) k = pLayer (sBoxLayer (lane s.plane k ^^^ roundKey s.key)) := by
  rw [roundPlanes, lane_permutedInto, lane_substituted, lane_keyMixed]

/-- What ROUND leaves of each register (R87). -/
theorem afterRound_eq (s : State) :
    afterCommand .round s =
      { s with
        tmp := roundPlanes s
        plane := roundPlanes s
        planeMark := Vector.replicate 256 true
        key := keySchedule s.key s.round
        keyMark := Vector.replicate 10 true
        round := s.round + 1#6
        cmd := Command.round.byte
        status := 0x01#8 } := by
  simp only [afterCommand, commandEffect, roundEffect_eq, State.withCommand]

/-- The counter does not wrap: 32 is in its six bits (R21, R87). -/
theorem round_succ_toNat {r : Round} (h : r.toNat ≤ 31) : (r + 1#6).toNat = r.toNat + 1 :=
  BitVec.toNat_add_of_lt (by simp; omega)

/-- Settles O47: the lanes are those of the three layers, and every other field is one ROUND writes or does not touch. -/
theorem roundIsOneReferenceRoundInEveryLane : Obligations.RoundIsOneReferenceRoundInEveryLane := by
  refine ⟨by decide, fun s h1 h31 hp hk => ⟨_, exec_round ⟨h1, h31⟩ hp hk, ?_⟩, fun s hr => ?_, fun s h1 h31 hw => ?_⟩
  · have hlane := lane_roundPlanes s
    rw [afterRound_eq]
    generalize roundPlanes s = p at hlane ⊢
    exact ⟨hlane, rfl, round_succ_toNat h31, State.planeWritten_of_planeMark rfl, State.keyWritten_of_keyMark rfl,
      ⟨rfl, rfl⟩, rfl, sameBatch_of_batch rfl, rfl, rfl, rfl⟩
  · exact (exec_command .round s).trans (runCommand_outOfRange ((s.roundInRange_eq_false_iff (.inr rfl)).mpr hr))
  · exact commandReadingUnwrittenByteFaults.1 .round s ((s.roundInRange_iff (.inr rfl)).mpr ⟨h1, h31⟩)
      (Bool.and_eq_false_iff.mpr hw)

theorem execAll_cons {i : Instr} {l : List Instr} {s t : State} (h : exec i s = .next t) :
    execAll (i :: l) s = execAll l t := by
  rw [execAll, h]

/-- All of KEY is written, so the bytes that key mixing reads are (R79). -/
theorem State.roundKeyWritten_of_keyWritten {s : State} (h : s.keyWritten = true) : s.roundKeyWritten = true :=
  s.roundKeyWritten_iff.mpr fun j _ => s.keyWritten_iff.mp h j

theorem exec_ksadv_afterCommand {s : State} (hr : 1 ≤ s.round.toNat ∧ s.round.toNat ≤ 31) (hk : s.keyWritten = true) :
    exec .ksadv s = .next (afterCommand .ksadv s) :=
  exec_eq_afterCommand (c := .ksadv) ((s.roundInRange_iff (.inl rfl)).mpr hr) hk

/-- The state after KEYMIX, SBOX and PLAYER one after another (R87). -/
def afterLayers (s : State) : State := afterCommand .player (afterCommand .sbox (afterCommand .keymix s))

theorem afterLayers_round (s : State) : (afterLayers s).round = s.round := by
  rw [afterLayers, afterPlayer_eq]
  rfl

theorem afterLayers_keyMark (s : State) : (afterLayers s).keyMark = s.keyMark := by
  rw [afterLayers, afterPlayer_eq]
  rfl

theorem execAll_subSteps {s : State} (hr : 1 ≤ s.round.toNat ∧ s.round.toNat ≤ 31) (hp : s.planeWritten = true)
    (hk : s.keyWritten = true) (l : List Instr) :
    execAll ([.keymix, .sbox, .player, .ksadv] ++ l) s = execAll l (afterCommand .ksadv (afterLayers s)) := by
  have hlayers : (afterLayers s).keyWritten = true := by rwa [State.keyWritten, afterLayers_keyMark]
  have hksadv := exec_ksadv_afterCommand ((afterLayers_round s).symm ▸ hr) hlayers
  simp only [List.cons_append, List.nil_append]
  rw [execAll_cons (exec_keymix hp (State.roundKeyWritten_of_keyWritten hk)),
    execAll_cons (exec_sbox (afterKeymix_planeWritten _)), execAll_cons (exec_player (afterSbox_planeWritten _)),
    ← afterLayers, execAll_cons hksadv]

/-- The four sub-steps have the effect of ROUND but for its counter (R87). -/
theorem afterKsadv_afterLayers (s : State) :
    afterCommand .ksadv (afterLayers s) = State.withCommand Command.ksadv.byte 0x01#8
      (keyScheduleEffect s.round (playerEffect (sboxEffect (keyMixEffect s)))) := by
  have hround : (playerEffect (sboxEffect (keyMixEffect s))).round = s.round := by
    simp only [playerEffect_eq, sboxEffect_eq, keyMixEffect_eq, State.setPlanes_round]
  simp only [afterLayers, afterCommand, commandEffect_withCommand, State.withCommand_withCommand]
  simp only [commandEffect, hround]

/-- The data byte of SETROUND `r + 1` puts `r + 1` into ROUND (R21, R87). -/
theorem setRound_succ (r : Round) : (r.setWidth 8 + 1#8).extractLsb' 0 6 = r + 1#6 := by
  apply BitVec.eq_of_toNat_eq
  simp

/-- Settles O48: the sub-steps leave the counter as it was, and SETROUND writes it. -/
theorem roundIsItsFourSubStepsAndTheCounter : Obligations.RoundIsItsFourSubStepsAndTheCounter := by
  intro s h1 h31 hp hk
  refine ⟨_, _, exec_round ⟨h1, h31⟩ hp hk, execAll_subSteps ⟨h1, h31⟩ hp hk _, ?_⟩
  rw [setRound_succ, afterKsadv_afterLayers]
  simp only [afterCommand, commandEffect, roundEffect]
  generalize keyScheduleEffect s.round _ = u
  rfl

end Sys2Proof.Machine
end

section
/-! ENCRYPT (R91, R97): its sequencer, round by round, is the pseudocode of its rule; and NOP (R92). -/

namespace Sys2Proof.Machine

/-- Settles O26: NOP has no effect of its own, so a completed NOP leaves CMD and STATUS. -/
theorem nopOnlyReportsCompletion : Obligations.NopOnlyReportsCompletion :=
  ⟨by decide, fun _ => exec_eq_afterCommand (c := .nop) rfl rfl⟩

/-- The state with the sequencer in another phase. -/
def State.withPhase (q : Phase) (s : State) : State := { s with phase := q }

theorem roundEffect_withPhase (r : Round) (q : Phase) (s : State) :
    roundEffect r (s.withPhase q) = (roundEffect r s).withPhase q := by
  rw [roundEffect_eq, roundEffect_eq]
  rfl

/-- The four phases of round `r` (R27, R87). -/
theorem runSequencer_four (r : Round) (s : State) :
    runSequencer 4 (s.withPhase (.rnd r .keyMix)) = (roundEffect r s).withPhase (phaseAfterRound r) := by
  rw [runSequencer_round r 0 _ rfl, runSequencer_zero, roundEffect_withPhase]
  rfl

theorem runSequencer_add (m n : Nat) (s : State) : runSequencer (m + n) s = runSequencer n (runSequencer m s) := by
  induction m generalizing s with
  | zero => rw [Nat.zero_add, runSequencer_zero]
  | succ m ih => rw [Nat.succ_add, runSequencer, ih, runSequencer]

theorem roundLoop_append (l l' : List Round) (s : State) : roundLoop (l ++ l') s = roundLoop l' (roundLoop l s) := by
  induction l generalizing s with
  | nil => rfl
  | cons r rest ih => rw [List.cons_append, roundLoop, ih, roundLoop]

/-- The state after the rounds 1 to `n` of R91's loop. -/
def afterRounds (n : Nat) (s : State) : State := roundLoop ((List.range n).map fun i => BitVec.ofNat 6 (i + 1)) s

theorem afterRounds_succ (n : Nat) (s : State) :
    afterRounds (n + 1) s = roundEffect (BitVec.ofNat 6 (n + 1)) (afterRounds n s) := by
  rw [afterRounds, List.range_succ, List.map_append, roundLoop_append]
  rfl

/-- Before round 31 the next round follows (R27, R97). -/
theorem phaseAfterRound_ofNat {n : Nat} (h : n < 31) :
    phaseAfterRound (BitVec.ofNat 6 n) = .rnd (BitVec.ofNat 6 (n + 1)) .keyMix := by
  have hne : BitVec.ofNat 6 n ≠ 31#6 := fun he => by
    have hnat := congrArg BitVec.toNat he
    simp only [BitVec.toNat_ofNat] at hnat
    omega
  rw [phaseAfterRound, if_neg hne, BitVec.ofNat_add]

/-- Four phases for each round: after the rounds 1 to `n` the sequencer is at round `n + 1`, or after round 31 at the whitening
(R27, R91). -/
theorem runSequencer_rounds {n : Nat} (h : n ≤ 31) (s : State) :
    runSequencer (4 * n) (s.withPhase (.rnd 1#6 .keyMix)) =
      (afterRounds n s).withPhase (phaseAfterRound (BitVec.ofNat 6 n)) := by
  induction n with
  | zero => rfl
  | succ n ih =>
    rw [Nat.mul_succ, runSequencer_add, ih (by omega), phaseAfterRound_ofNat (by omega), runSequencer_four,
      ← afterRounds_succ]

/-- The state that ENC leaves: the planes of the batch, and `ROUND = 1` (R91). -/
def loadedPlanes (s : State) : State := { encodeEffect s with round := 1#6 }

theorem encryptPseudocode_eq (s : State) :
    encryptPseudocode s = decodeEffect (keyMixEffect (afterRounds 31 (loadedPlanes s))) := rfl

/-- The last two phases, WHITEN and DEC (R27). -/
theorem runSequencer_whiten (s : State) :
    runSequencer 2 (s.withPhase .whiten) = (decodeEffect (keyMixEffect s)).withPhase .idle := rfl

theorem encryptEffect_eq (s : State) : encryptEffect s = (encryptPseudocode s).withPhase .idle := by
  have henc : runSequencer 1 (s.withPhase .enc) = (loadedPlanes s).withPhase (.rnd 1#6 .keyMix) := rfl
  calc encryptEffect s
      = runSequencer (1 + 4 * 31 + 2) (s.withPhase .enc) := rfl
    _ = runSequencer 2 ((afterRounds 31 (loadedPlanes s)).withPhase .whiten) := by
        rw [runSequencer_add, runSequencer_add, henc, runSequencer_rounds le_rfl]
        rfl
    _ = (encryptPseudocode s).withPhase .idle := by rw [runSequencer_whiten, encryptPseudocode_eq]

theorem exec_encrypt {s : State} (hb : s.batchWritten = true) (hk : s.keyWritten = true) :
    exec .encrypt s = .next (afterCommand .encrypt s) :=
  exec_eq_afterCommand (c := .encrypt) rfl (Bool.and_eq_true_iff.mpr ⟨hb, hk⟩)

theorem exec_encrypt_uninit {s : State} (h : s.batchWritten = false ∨ s.keyWritten = false) :
    exec .encrypt s = .fault (.uninitReadBy .encrypt) :=
  commandReadingUnwrittenByteFaults.1 .encrypt s rfl (Bool.and_eq_false_iff.mpr h)

/-- The state in which ENCRYPT leaves the unit, from the state `u` after its rounds: the whitening, DECODE, and the completion
(R91, R102). -/
def finished (u : State) : State :=
  { decodeEffect (keyMixEffect u) with cmd := 0x08#8, status := 0x01#8, phase := .idle }

theorem finished_eq (u : State) :
    finished u = ((decodeEffect (keyMixEffect u)).withPhase .idle).withCommand Command.encrypt.byte 0x01#8 := rfl

theorem afterEncrypt_eq (s : State) : afterCommand .encrypt s = finished (afterRounds 31 (loadedPlanes s)) := by
  rw [afterCommand, commandEffect, encryptEffect_eq, encryptPseudocode_eq, finished_eq]

/-- Settles O49: the sequencer's state is the pseudocode's with the phase at idle. -/
theorem encryptIsItsPseudocode : Obligations.EncryptIsItsPseudocode := by
  refine ⟨by decide, fun s hb hk => ?_, fun s => exec_encrypt_uninit⟩
  rw [exec_encrypt hb hk, afterEncrypt_eq, finished, encryptPseudocode_eq]

/-- ENC writes all of PLANE and ROUND, so nothing of what they held is left (R95). -/
theorem exec_encrypt_overwritten (s : State) (p : Planes) (w : Vector Bool 256) (r : Round) :
    exec .encrypt { s with plane := p, planeMark := w, round := r } = exec .encrypt s := by
  cases hw : s.operandsWritten .encrypt with
  | true =>
    obtain ⟨hb, hk⟩ := Bool.and_eq_true_iff.mp hw
    have hplanes : loadedPlanes { s with plane := p, planeMark := w, round := r } = loadedPlanes s := rfl
    rw [exec_encrypt hb hk, exec_encrypt (s := { s with plane := p, planeMark := w, round := r }) hb hk,
      afterEncrypt_eq, afterEncrypt_eq, hplanes]
  | false =>
    have hunwritten := Bool.and_eq_false_iff.mp hw
    rw [exec_encrypt_uninit hunwritten]
    exact exec_encrypt_uninit hunwritten

/-- Settles O52: what ENC overwrites does not matter, and states that differ in TMP alone are alike. -/
theorem encryptIgnoresPlanesRoundAndTmp : Obligations.EncryptIgnoresPlanesRoundAndTmp := by
  intro s p x w r
  rw [exec_encrypt_overwritten { s with tmp := x } p w r]
  exact ((Alike.refl s).withTmp s.tmp x).exec .encrypt

end Sys2Proof.Machine
end

section
/-! ENCRYPT in every lane (R94, R96): the 31 rounds and the whitening are `encrypt_ref` on the lane's block, and DECODE writes the
lanes out as blocks. What the end of ENCRYPT does to a register is said of any state `u` after the rounds: reading a field of the
state after 31 written-out rounds would run them. -/

namespace Sys2Proof.Machine

@[simp] theorem loadedPlanes_plane (s : State) : (loadedPlanes s).plane = encodedPlanes s := rfl
@[simp] theorem loadedPlanes_key (s : State) : (loadedPlanes s).key = s.key := rfl
@[simp] theorem loadedPlanes_inputs (s : State) : (loadedPlanes s).inputs = s.inputs := rfl
@[simp] theorem loadedPlanes_observed (s : State) : (loadedPlanes s).observed = s.observed := rfl

@[simp] theorem finished_plane (u : State) : (finished u).plane = keyMixed u.plane (roundKey u.key) := rfl
@[simp] theorem finished_key (u : State) : (finished u).key = u.key := rfl
@[simp] theorem finished_round (u : State) : (finished u).round = u.round := rfl
@[simp] theorem finished_cmd (u : State) : (finished u).cmd = 0x08#8 := rfl
@[simp] theorem finished_status (u : State) : (finished u).status = 0x01#8 := rfl
@[simp] theorem finished_phase (u : State) : (finished u).phase = .idle := rfl
@[simp] theorem finished_inputs (u : State) : (finished u).inputs = u.inputs := rfl
@[simp] theorem finished_observed (u : State) : (finished u).observed = u.observed := rfl

@[simp] theorem finished_batchWritten (u : State) : (finished u).batchWritten = true :=
  (keyMixEffect u).batchWritten_setBatch _

@[simp] theorem finished_planeWritten (u : State) : (finished u).planeWritten = true :=
  State.planeWritten_of_planeMark rfl

@[simp] theorem finished_keyWritten (u : State) : (finished u).keyWritten = u.keyWritten := rfl

theorem lane_encodedPlanes (s : State) (k : Fin 32) : lane (encodedPlanes s) k = s.blk k :=
  lane_eq_iff.mpr fun i => by rw [encodedPlanes_getLsbD, State.bit, blockBitsAreBatchBits]

/-- DECODE writes lane `k` of the planes as block `k` (R66, R70). -/
theorem blk_decodeEffect (s : State) (k : Fin 32) : (decodeEffect s).blk k = lane s.plane k := by
  rw [← lane_encodedPlanes, decodeEffect_eq, encodedPlanes_setBatch_decodedByte]

theorem blk_finished (u : State) (k : Fin 32) : (finished u).blk k = lane (finished u).plane k :=
  blk_decodeEffect (keyMixEffect u) k

/-- R91's loop is R93's in every lane, on the lane and the key (R94). -/
theorem referenceRounds_lane (l : List Round) (s : State) (k : Fin 32) :
    referenceRounds l (lane s.plane k, s.key) = (lane (roundLoop l s).plane k, (roundLoop l s).key) := by
  induction l generalizing s with
  | nil => rfl
  | cons r rest ih =>
    have hround : referenceRound (lane s.plane k) (s.key.extractLsb' 16 64) = lane (roundEffect r s).plane k := by
      rw [roundEffect_eq]
      exact (lane_roundPlanes s k).symm
    have hkey : keySchedule s.key r = (roundEffect r s).key := by rw [roundEffect_eq]
    rw [referenceRounds, hround, hkey, ih, roundLoop]

theorem blk_afterEncrypt (s : State) (k : Fin 32) :
    (afterCommand .encrypt s).blk k = encryptRef (s.blk k) s.key := by
  have hrounds := referenceRounds_lane referenceNumbers (loadedPlanes s) k
  rw [loadedPlanes_plane, loadedPlanes_key, lane_encodedPlanes] at hrounds
  rw [afterEncrypt_eq, blk_finished, finished_plane, lane_keyMixed, encryptRef, hrounds]
  rfl

/-- Settles O50: lane by lane the loop is the reference cipher's. -/
theorem encryptMeetsTheReferenceCipher : Obligations.EncryptMeetsTheReferenceCipher :=
  fun s hb hk => ⟨_, exec_encrypt hb hk, blk_afterEncrypt s⟩

/-- After `n` rounds the key is `K_{n+1}` (R76, R96). -/
theorem afterRounds_key (n : Nat) (s : State) : (afterRounds n s).key = keySequence s.key n := by
  induction n with
  | zero => rfl
  | succ n ih => rw [afterRounds_succ, roundEffect_eq, keySequence, ih]

theorem afterRounds_inputs (n : Nat) (s : State) : (afterRounds n s).inputs = s.inputs := by
  induction n with
  | zero => rfl
  | succ n ih => rw [afterRounds_succ, roundEffect_eq, ih]

theorem afterRounds_observed (n : Nat) (s : State) : (afterRounds n s).observed = s.observed := by
  induction n with
  | zero => rfl
  | succ n ih => rw [afterRounds_succ, roundEffect_eq, ih]

/-- The last round leaves ROUND = 32 (R96). -/
theorem afterRounds_round (s : State) : (afterRounds 31 s).round = 32#6 := by
  rw [afterRounds_succ, roundEffect_eq]
  rfl

/-- Every round writes all of KEY (R28, R87). -/
theorem afterRounds_keyWritten (s : State) : (afterRounds 31 s).keyWritten = true := by
  rw [afterRounds_succ, roundEffect_eq]
  exact State.keyWritten_of_keyMark rfl

/-- Settles O51: DECODE leaves all but BATCH as the whitening left it, and the whitening all but PLANE as the rounds did. -/
theorem encryptEndState : Obligations.EncryptEndState := by
  intro s hb hk
  refine ⟨_, exec_encrypt hb hk, blk_afterEncrypt s, ?_⟩
  rw [afterEncrypt_eq]
  refine ⟨fun i k => by rw [blk_finished, lane_getLsbD], ?_, ?_, finished_status _, finished_cmd _,
    finished_batchWritten _, finished_planeWritten _, ?_, finished_phase _, ?_, ?_⟩
  · rw [finished_key, afterRounds_key, loadedPlanes_key]
  · rw [finished_round, afterRounds_round]
  · rw [finished_keyWritten, afterRounds_keyWritten]
  · rw [finished_inputs, afterRounds_inputs, loadedPlanes_inputs]
  · rw [finished_observed, afterRounds_observed, loadedPlanes_observed]

end Sys2Proof.Machine
end

section
/-! Commands and errors (60_exceptions.md): the idle unit (R114), the range of the round number (R101), and that a command has
its whole effect or none (R99). -/

namespace Sys2Proof.Machine

/-- Settles O5: an empty queue is the step's first case. -/
theorem idleUnitHoldsEveryRegister : Obligations.IdleUnitHoldsEveryRegister := by
  intro s hin
  simp only [step, hin]

theorem statusErr_statusOfError (e : ErrorCode) : statusErr (statusOfError e) = true := by cases e <;> rfl

/-- No command but KSADV and ROUND checks `ROUND` (R101). -/
theorem State.roundInRange_of_ne (s : State) {c : Command} (hk : c ≠ .ksadv) (hr : c ≠ .round) :
    s.roundInRange c = true := by
  cases c with
  | ksadv => exact absurd rfl hk
  | round => exact absurd rfl hr
  | _ => rfl

theorem exec_outOfRange {s : State} {c : Command} (hc : c = .ksadv ∨ c = .round)
    (h : s.round.toNat = 0 ∨ 32 ≤ s.round.toNat) : exec c.instr s = .next (s.withCommand c.byte 0x0E#8) :=
  (exec_command c s).trans (runCommand_outOfRange ((s.roundInRange_eq_false_iff hc).mpr h))

/-- A command in range that goes on has completed (R102). -/
theorem status_of_exec_command {c : Command} {s t : State} (hr : s.roundInRange c = true)
    (h : exec c.instr s = .next t) : t.status = 0x01#8 := by
  rcases exec_command_next h with ⟨_, _, rfl⟩ | ⟨hout, _⟩
  · exact completed_status c s c.byte
  · exact absurd (hr.symm.trans hout) (by decide)

theorem State.operandsWritten_withRound (s : State) (r : Round) (c : Command) :
    State.operandsWritten { s with round := r } c = s.operandsWritten c := by cases c <;> rfl

/-- What a command other than KSADV and ROUND does is the same for every value of `ROUND`: ENCRYPT writes `ROUND` before its
rounds, and the others do not look at it (R91, R101). -/
theorem afterCommand_withRound {c : Command} (hk : c ≠ .ksadv) (hr : c ≠ .round) (s : State) (r : Round) :
    { afterCommand c s with round := (afterCommand c { s with round := r }).round } =
      afterCommand c { s with round := r } := by
  cases c with
  | ksadv => exact absurd rfl hk
  | round => exact absurd rfl hr
  | encrypt =>
    have hplanes : loadedPlanes { s with round := r } = loadedPlanes s := rfl
    have hafter : afterCommand .encrypt { s with round := r } = afterCommand .encrypt s := by
      rw [afterEncrypt_eq, afterEncrypt_eq, hplanes]
    rw [hafter]
  | _ => rfl

theorem sameButRound_exec_command {c : Command} (hk : c ≠ .ksadv) (hr : c ≠ .round) (s : State) (r : Round) :
    Claims.sameButRound (exec c.instr s) (exec c.instr { s with round := r }) := by
  have hrange := State.roundInRange_of_ne s hk hr
  have hrange' := State.roundInRange_of_ne { s with round := r } hk hr
  have hoperands := s.operandsWritten_withRound r c
  cases hw : s.operandsWritten c with
  | true =>
    rw [exec_eq_afterCommand hrange hw, exec_eq_afterCommand hrange' (hoperands.trans hw)]
    exact afterCommand_withRound hk hr s r
  | false =>
    have hfault := commandReadingUnwrittenByteFaults.1 c
    rw [hfault s hrange hw, hfault _ hrange' (hoperands.trans hw)]
    exact rfl

/-- Settles O20: the check of the range comes first, and only KSADV and ROUND make it. -/
theorem roundRangeIsRaisedByKsadvAndRoundOnly : Obligations.RoundRangeIsRaisedByKsadvAndRoundOnly := by
  refine ⟨fun s h => ⟨exec_outOfRange (c := .ksadv) (.inl rfl) h, exec_outOfRange (c := .round) (.inr rfl) h⟩,
    fun s t h => ⟨status_of_exec_command (c := .ksadv) ((s.roundInRange_iff (.inl rfl)).mpr h),
      status_of_exec_command (c := .round) ((s.roundInRange_iff (.inr rfl)).mpr h)⟩,
    fun c s t hk hr h => ?_, fun c s r hk hr => sameButRound_exec_command hk hr s r⟩
  rw [status_of_exec_command (s.roundInRange_of_ne hk hr) h]
  decide

/-- Everything a write to CMD that goes on can have done, with the conditions under which the byte's command completes (R99,
R102, R103). -/
theorem writeCommand_next_completed_or_failed {v : Byte} {s t : State} (h : writeCommand v s = .next t) :
    (∃ c : Command, v = c.byte ∧ s.roundInRange c = true ∧ s.operandsWritten c = true ∧
      t = (commandEffect c (s.startCommand v)).complete) ∨
    ∃ e : ErrorCode, t = (s.startCommand v).raiseError e := by
  cases hd : decodeCommand v with
  | ok c =>
    obtain rfl := decodeCommand_ok hd
    rw [writeCommand_byte] at h
    rcases exec_command_next h with ⟨hr, hw, rfl⟩ | ⟨_, rfl⟩
    · exact .inl ⟨c, rfl, hr, hw, rfl⟩
    · exact .inr ⟨.roundRange, rfl⟩
  | error e =>
    rw [writeCommand_of_error hd] at h
    exact .inr ⟨commandError v, (Host.Outcome.next.inj h).symm⟩

/-- Settles O24: a completed command has ERR = 0, and a recorded error sets ERR and is all that the write leaves. -/
theorem errorsArePrecise : Obligations.ErrorsArePrecise := by
  intro v s t h
  rw [exec_wr_cmd] at h
  rcases writeCommand_next_completed_or_failed h with ⟨c, hv, hr, hw, ht⟩ | ⟨e, rfl⟩
  · have hstatus : t.status = 0x01#8 := ht ▸ completed_status c s v
    refine ⟨fun herr => ?_, fun _ => ⟨c, hv, hr, hw, hstatus, ht⟩⟩
    rw [hstatus] at herr
    exact absurd herr (by decide)
  · exact ⟨fun _ => rfl, fun herr => absurd ((statusErr_statusOfError e).symm.trans herr) (by decide)⟩

end Sys2Proof.Machine
end

section
/-! Reset (R115, R116), the operands of a command byte by byte (R119), and the cycles of a command (R128). -/

namespace Sys2Proof.Machine

/-- Settles O1: no byte of the reset state has a mark, and a `rst` on the port is a step to that state. -/
theorem resetClearsControlRegistersAndMarks : Obligations.ResetClearsControlRegistersAndMarks := by
  refine ⟨⟨rfl, rfl, rfl, rfl, fun _ => rfl, fun j => ?_, fun p b => ?_⟩, fun s rest hin => ?_⟩
  · exact State.readKey_eq_none_iff.mpr (Vector.getElem_replicate j.isLt)
  · exact State.readPlane_eq_none_iff.mpr (Vector.getElem_replicate (planeByteIndex p b).isLt)
  · simp only [step, hin, State.takeReset]

/-- Settles O2: the abandoned command leaves what a `rst` between two transactions leaves. -/
theorem resetAbandonsStalledCommand : Obligations.ResetAbandonsStalledCommand := by
  intro s v rest hin
  simp only [step, hin, abandonCommand, State.takeReset]

theorem State.batchWritten_iff (s : State) : s.batchWritten = true ↔ ∀ a, (s.readBatch a).isSome = true := by
  simp only [State.batchWritten, State.readBatch, List.all_eq_true, List.mem_range, Fin.forall_iff]

/-- Every number below 256 is the number of one byte of one plane (R41). -/
theorem planeByteIndex_surjective (i : Fin 256) : ∃ p b, planeByteIndex p b = i :=
  ⟨⟨i.val / 4, by omega⟩, ⟨i.val % 4, by omega⟩, Fin.ext (Nat.div_add_mod i.val 4)⟩

theorem State.planeWritten_iff_readPlane (s : State) :
    s.planeWritten = true ↔ ∀ p b, (s.readPlane p b).isSome = true := by
  simp only [s.planeWritten_iff, s.readPlane_isSome]
  refine ⟨fun h p b => h _, fun h i => ?_⟩
  obtain ⟨p, b, rfl⟩ := planeByteIndex_surjective i
  exact h p b

theorem State.keyWritten_iff_readKey (s : State) : s.keyWritten = true ↔ ∀ j, (s.readKey j).isSome = true := by
  simp only [s.keyWritten_iff, s.readKey_isSome]

theorem State.roundKeyWritten_iff_readKey (s : State) :
    s.roundKeyWritten = true ↔ ∀ j : Fin 10, 2 ≤ j.val → (s.readKey j).isSome = true := by
  simp only [s.roundKeyWritten_iff, s.readKey_isSome]

/-- Settles O22: each command's operands are whole registers, and a register is written when each of its bytes reads. -/
theorem writtenOperandsAreWrittenByteByByte : Obligations.WrittenOperandsAreWrittenByteByByte := fun s =>
  ⟨s.batchWritten_iff, s.planeWritten_iff_readPlane, s.planeWritten_iff_readPlane, s.planeWritten_iff_readPlane,
    Bool.and_eq_true_iff.trans (and_congr s.planeWritten_iff_readPlane s.roundKeyWritten_iff_readKey),
    s.keyWritten_iff_readKey,
    Bool.and_eq_true_iff.trans (and_congr s.planeWritten_iff_readPlane s.keyWritten_iff_readKey),
    Bool.and_eq_true_iff.trans (and_congr s.batchWritten_iff s.keyWritten_iff_readKey)⟩

/-- The cycles of a command: `LAT_<op>`, or `LAT_ERR` with its round number out of range (R128). -/
theorem commandCycles_byte (c : Command) (s : State) :
    commandCycles c.byte s = if s.roundInRange c then latency c else errorLatency := by
  simp only [commandCycles, decodeCommand_byte]

theorem commandCycles_of_error {v : Byte} {e : DecodeError} (h : decodeCommand v = .error e) (s : State) :
    commandCycles v s = errorLatency := by
  simp only [commandCycles, h]

theorem commandCycles_pos (v : Byte) (s : State) : 0 < commandCycles v s := by
  cases hd : decodeCommand v with
  | ok c =>
    rw [decodeCommand_ok hd, commandCycles_byte]
    split <;> exact Nat.succ_pos _
  | error e =>
    rw [commandCycles_of_error hd]
    exact Nat.succ_pos _

theorem State.roundInRange_congr {s t : State} (h : s.round = t.round) (c : Command) :
    s.roundInRange c = t.roundInRange c := by
  cases c with
  | ksadv => rw [State.roundInRange, State.roundInRange, h]
  | round => rw [State.roundInRange, State.roundInRange, h]
  | _ => rfl

/-- Of the state only `ROUND` has a part in the cycles of a command (R101, R128). -/
theorem commandCycles_congr {s t : State} (h : s.round = t.round) (v : Byte) :
    commandCycles v s = commandCycles v t := by
  cases hd : decodeCommand v with
  | ok c => rw [decodeCommand_ok hd, commandCycles_byte, commandCycles_byte, State.roundInRange_congr h]
  | error e => rw [commandCycles_of_error hd, commandCycles_of_error hd]

/-- A byte above the opcode map is rejected, as reserved or as illegal (R58, R64). -/
theorem exists_decodeCommand_eq_error {v : Byte} (h : 9 ≤ v.toNat) : ∃ e, decodeCommand v = .error e := by
  rcases Nat.lt_or_ge v.toNat 0x10 with h' | h'
  · exact ⟨_, decodeCommand_eq_illegalOp h h'⟩
  · exact ⟨_, decodeCommand_eq_reservedBits h'⟩

/-- Settles O60: the byte and the check of the round number decide the cycles. -/
theorem latencyIsPositiveAndIndependentOfDataAndKey : Obligations.LatencyIsPositiveAndIndependentOfDataAndKey := by
  refine ⟨commandCycles_pos, fun c s hk hr => ?_, fun c s hc => ⟨fun h => ?_, fun h => ?_⟩, fun v s h => ?_,
    fun v s t h => commandCycles_congr h v⟩
  · rw [commandCycles_byte, s.roundInRange_of_ne hk hr, if_pos rfl]
  · rw [commandCycles_byte, (s.roundInRange_iff hc).mpr h, if_pos rfl]
  · rw [commandCycles_byte, (s.roundInRange_eq_false_iff hc).mpr h, if_neg Bool.false_ne_true]
  · obtain ⟨e, he⟩ := exists_decodeCommand_eq_error h
    exact commandCycles_of_error he s

end Sys2Proof.Machine
end

section
/-! ENCRYPT as a host steps it (R97, R123): ENCODE, SETROUND, the 31 ROUND, KEYMIX and DECODE, each as its effect on the state
with CMD and STATUS set aside. -/

namespace Sys2Proof.Machine

theorem execAll_append {l : List Instr} {s t : State} (h : execAll l s = .next t) (l' : List Instr) :
    execAll (l ++ l') s = execAll l' t := by
  induction l generalizing s with
  | nil => rw [List.nil_append, Host.Outcome.next.inj h]
  | cons i rest ih =>
    simp only [List.cons_append, execAll] at h ⊢
    cases hi : exec i s with
    | next u => exact ih (by simpa only [hi] using h)
    | fault f => simp only [hi, reduceCtorEq] at h
    | refused r => simp only [hi, reduceCtorEq] at h

/-- What CMD and STATUS held before a command is not left after it (R102). -/
theorem afterCommand_withCommand (c : Command) (s : State) (v st : Byte) :
    afterCommand c (s.withCommand v st) = afterCommand c s := by
  rw [afterCommand, commandEffect_withCommand, State.withCommand_withCommand, afterCommand]

/-- The state between two rounds, `r` being the number of the next: PLANE and KEY are all written (R87). -/
structure ReadyForRound (r : Round) (s : State) : Prop where
  round : s.round = r
  planeWritten : s.planeWritten = true
  keyWritten : s.keyWritten = true

theorem ReadyForRound.roundEffect (r : Round) (s : State) : ReadyForRound (r + 1#6) (roundEffect r s) := by
  rw [roundEffect_eq]
  exact ⟨rfl, State.planeWritten_of_planeMark rfl, State.keyWritten_of_keyMark rfl⟩

theorem ReadyForRound.afterRounds {s : State} (h : ReadyForRound 1#6 s) (n : Nat) :
    ReadyForRound (BitVec.ofNat 6 (n + 1)) (afterRounds n s) := by
  cases n with
  | zero => exact h
  | succ n =>
    rw [afterRounds_succ, BitVec.ofNat_add (n + 1) 1]
    exact ReadyForRound.roundEffect _ _

theorem ReadyForRound.loadedPlanes {s : State} (h : s.keyWritten = true) : ReadyForRound 1#6 (loadedPlanes s) :=
  ⟨rfl, s.planeWritten_setPlanes (encodedPlanes s), h⟩

theorem exec_round_withCommand {r : Round} {s : State} (h : ReadyForRound r s) (hr : 1 ≤ r.toNat ∧ r.toNat ≤ 31)
    (v st : Byte) :
    exec .round (s.withCommand v st) = .next ((roundEffect r s).withCommand Command.round.byte 0x01#8) := by
  obtain ⟨rfl, hp, hk⟩ := h
  rw [exec_round (s := s.withCommand v st) hr hp hk, afterCommand_withCommand, afterCommand, commandEffect]

theorem repeatBody_succ (n : Nat) (body : List Instr) : repeatBody (n + 1) body = repeatBody n body ++ body := by
  simp only [repeatBody, List.replicate_succ', List.flatten_concat]

/-- ROUND `n` times, from round number 1, is the first `n` rounds of R91's loop but for what is left in CMD and STATUS. -/
theorem execAll_repeat_round {s : State} (h : ReadyForRound 1#6 s) {n : Nat} (hn : n ≤ 31) (v st : Byte) :
    ∃ w su, execAll (repeatBody n [.round]) (s.withCommand v st) = .next ((afterRounds n s).withCommand w su) := by
  induction n with
  | zero => exact ⟨v, st, rfl⟩
  | succ n ih =>
    obtain ⟨w, su, hn'⟩ := ih (by omega)
    have hr : 1 ≤ (BitVec.ofNat 6 (n + 1)).toNat ∧ (BitVec.ofNat 6 (n + 1)).toNat ≤ 31 := by
      rw [BitVec.toNat_ofNat]
      omega
    refine ⟨Command.round.byte, 0x01#8, ?_⟩
    rw [repeatBody_succ, execAll_append hn', execAll_cons (exec_round_withCommand (h.afterRounds n) hr w su),
      ← afterRounds_succ, execAll]

/-- ENCODE and SETROUND 1 do what the phase ENC does (R91). -/
theorem execAll_encode_setRound {s : State} (h : s.batchWritten = true) :
    execAll ([.encode] ++ setRound 1#8) s = .next ((loadedPlanes s).withCommand Command.encode.byte 0x01#8) := by
  have hencode : exec .encode s = .next (afterCommand .encode s) := exec_eq_afterCommand (c := .encode) rfl h
  rw [List.singleton_append, execAll_cons hencode]
  rfl

/-- KEYMIX and DECODE do what the phases WHITEN and DEC do (R91). -/
theorem execAll_keymix_decode {s : State} (hp : s.planeWritten = true) (hk : s.keyWritten = true) (v st : Byte) :
    execAll [.keymix, .decode] (s.withCommand v st) =
      .next ((decodeEffect (keyMixEffect s)).withCommand Command.decode.byte 0x01#8) := by
  have hmix : exec .keymix (s.withCommand v st) = .next (afterCommand .keymix s) := by
    rw [exec_keymix (s := s.withCommand v st) hp (State.roundKeyWritten_of_keyWritten hk), afterCommand_withCommand]
  have hdecode : exec .decode (afterCommand .keymix s) =
      .next ((decodeEffect (keyMixEffect s)).withCommand Command.decode.byte 0x01#8) :=
    exec_eq_afterCommand (c := .decode) rfl (afterKeymix_planeWritten s)
  rw [execAll_cons hmix, execAll_cons hdecode, execAll]

theorem afterRounds_phase (n : Nat) (s : State) : (afterRounds n s).phase = s.phase := by
  induction n with
  | zero => rfl
  | succ n ih => rw [afterRounds_succ, roundEffect_eq, ih]

/-- DECODE of an idle unit after the whitening leaves what ENCRYPT leaves, but for the byte in CMD (R97). -/
theorem withCommand_eq_finished {u : State} (h : u.phase = .idle) (v : Byte) :
    { (decodeEffect (keyMixEffect u)).withCommand v 0x01#8 with cmd := 0x08#8 } = finished u := by
  rw [finished, ← h]
  rfl

/-- Settles O53: the stepped commands go through the states of R91's pseudocode, which the sequencer goes through too. -/
theorem steppedEncryptionIsEncrypt : Obligations.SteppedEncryptionIsEncrypt := by
  intro s hb hk hidle
  have hready := ReadyForRound.loadedPlanes hk
  obtain ⟨w, su, hrounds⟩ := execAll_repeat_round hready (le_refl 31) Command.encode.byte 0x01#8
  obtain ⟨-, hplane, hkey⟩ := hready.afterRounds 31
  refine ⟨_, _, exec_encrypt hb hk,
    (execAll_append ((execAll_append (execAll_encode_setRound hb) _).trans hrounds) _).trans
      (execAll_keymix_decode hplane hkey w su), ?_⟩
  rw [afterEncrypt_eq]
  exact withCommand_eq_finished ((afterRounds_phase 31 (loadedPlanes s)).trans hidle) _

end Sys2Proof.Machine
end

section
/-! A batch that the host loads (R63, R118): the 32 LOADBLK are the writes of all 256 bytes of BATCH, and ENCRYPT encrypts what
they wrote. -/

namespace Sys2Proof.Machine

/-- The byte of BATCH at `a` when every lane `k` holds the block `v k` (R12, R37). -/
def blocksByte (v : Fin 32 → Block) (a : Fin 256) : Byte := byteAt (v ⟨a.val / 8, by omega⟩) (a.val % 8)

theorem blocksByte_batchIndex (v : Fin 32 → Block) (k : Fin 32) (j : Fin 8) :
    blocksByte v (batchIndex k j) = byteAt (v k) j.val := by
  have hlane : (8 * k.val + j.val) / 8 = k.val := by omega
  have hbyte : (8 * k.val + j.val) % 8 = j.val := by omega
  simp only [blocksByte, batchIndex, hlane, hbyte, Fin.eta]

/-- The addresses of the blocks 0 to 31, in the order in which the 32 LOADBLK write them. -/
def batchAddresses : List (Fin 256) := (List.finRange 32).flatMap fun k => (List.finRange 8).map (batchIndex k)

theorem mem_batchAddresses (a : Fin 256) : a ∈ batchAddresses := by
  simp only [batchAddresses, List.mem_flatMap, mem_map_batchIndex_iff]
  exact ⟨⟨a.val / 8, by omega⟩, List.mem_finRange _, rfl⟩

theorem flatMap_loadBlk_eq_map (v : Fin 32 → Block) :
    (List.finRange 32).flatMap (fun k => loadBlk k (v k)) =
      batchAddresses.map fun a => .wr (BitVec.ofNat 10 a.val) (blocksByte v a) := by
  simp only [batchAddresses, List.map_flatMap, List.map_map, Function.comp_def, blocksByte_batchIndex]
  rfl

theorem execAll_loadBlks (v : Fin 32 → Block) (s : State) :
    execAll ((List.finRange 32).flatMap fun k => loadBlk k (v k)) s =
      .next (s.writeBatchBytes (blocksByte v) batchAddresses) := by
  rw [flatMap_loadBlk_eq_map]
  refine execAll_map_eq_foldl (fun _ a => exec_wr_batch (region_eq_batch ?_) _) _ s
  rw [BitVec.toNat_ofNat]
  omega

theorem readBatch_loadBlks (v : Fin 32 → Block) (s : State) (a : Fin 256) :
    (s.writeBatchBytes (blocksByte v) batchAddresses).readBatch a = some (blocksByte v a) :=
  (s.readBatch_writeBatchBytes _ _ a).trans (if_pos (mem_batchAddresses a))

theorem State.writeBatchBytes_key (s : State) (f : Fin 256 → Byte) (l : List (Fin 256)) :
    (s.writeBatchBytes f l).key = s.key :=
  (congrArg State.key (s.writeBatchBytes_frame f l)).symm

theorem State.writeBatchBytes_keyWritten (s : State) (f : Fin 256 → Byte) (l : List (Fin 256)) :
    (s.writeBatchBytes f l).keyWritten = s.keyWritten :=
  (congrArg State.keyWritten (s.writeBatchBytes_frame f l)).symm

/-- The blocks that the 32 LOADBLK write are those the lanes hold (R13, R37). -/
theorem blk_loadBlks (v : Fin 32 → Block) (s : State) (k : Fin 32) :
    (s.writeBatchBytes (blocksByte v) batchAddresses).blk k = v k :=
  State.blk_of_readBatch fun j => (readBatch_loadBlks v s _).trans (congrArg some (blocksByte_batchIndex v k j))

/-- Each of the 256 bytes of BATCH has its mark after the 32 LOADBLK (R28). -/
theorem batchWritten_loadBlks (v : Fin 32 → Block) (s : State) :
    (s.writeBatchBytes (blocksByte v) batchAddresses).batchWritten = true :=
  (State.batchWritten_iff _).mpr fun a => by rw [readBatch_loadBlks, Option.isSome_some]

/-- Settles O56: the macros write all of KEY and BATCH, so ENCRYPT completes, and it encrypts in every lane what they wrote. -/
theorem loadedBatchIsEncrypted : Obligations.LoadedBatchIsEncrypted := by
  intro k v s
  obtain ⟨u, hset, hkey, hkeyWritten, -⟩ := setKeyLoadsTheKey k s
  have hload := (execAll_append hset _).trans (execAll_loadBlks v u)
  have hencrypt := exec_encrypt (batchWritten_loadBlks v u) ((u.writeBatchBytes_keyWritten _ _).trans hkeyWritten)
  refine ⟨_, (execAll_append hload _).trans (execAll_cons hencrypt), fun n => ?_⟩
  rw [blk_afterEncrypt, blk_loadBlks, State.writeBatchBytes_key, hkey]

end Sys2Proof.Machine
end
